-- ==== Sys2Proof/Word.lean ====
section
/-! DEFINITION. The word types of the ppmtools raster block (PRB): what the spec treats as bits. -/

namespace Sys2Proof

/-- One byte of the byte memory, 0 to 255 (`20_memory.md` R30). -/
abbrev Byte := BitVec 8

/-- One stored sample, an unsigned integer of 16 bits (`10_state.md` R11, `SAMPLE_BITS` of R3). -/
abbrev Sample := BitVec 16

/-- One 32-bit word: a quarter of a command (`30_encoding.md` R50) or a register of the host's
register space (`10_state.md` R19). -/
abbrev Word := BitVec 32

/-- One command `C = W0 ++ W1 ++ W2 ++ W3`, 128 bits, bit 0 the least significant bit of `W3`
(`30_encoding.md` R50). -/
abbrev Command := BitVec 128

end Sys2Proof
end

