-- ==== Sys2Proof/Config.lean ====
section
/-! DEFINITION. The implementation parameters of `00_scope.md` R3, as arguments, and the values no rule
of the spec fixes. -/

namespace Sys2Proof.Config

/-- `DIM_MAX`: the largest legal width or height (R3, R11). -/
def dimMax : Nat := 32767

/-- `MAXVAL_MAX`: the largest legal `maxval` (R3, R11). -/
def maxvalMax : Nat := 65535

/-! ## The arguments of R3

"The model takes the parameters of this table as arguments." Those the table marks `fixed by source` are
the two constants above and the type `Sample`. The rest are the fields of `Params`: two that R3 leaves
OPEN, and five with a decided value, "the spec's choice", which is the field's default. -/

/-- `ARITH`: the arithmetic of the resamplers' real numbers (R3, D17, U9). -/
inductive Arith where
  /-- Exact rational arithmetic, the decided value (D17). -/
  | exact
  /-- Any other arithmetic, by number. What it gives for each of the rules' formulae is a FREE VALUE,
  see `otherCubic`, `otherBlend`, `otherCoord`, `otherOffset`, `otherFrac` (log entry 11). -/
  | other (k : Nat)
  deriving DecidableEq, Repr

/-- `ROUND`: the function "rounded to integer" (R3, R6, D18, U9). -/
inductive Rounding where
  /-- `floor(q + 1/2)`, the decided value (D18). -/
  | floorHalf
  /-- To the nearest integer, a tie going away from zero, the first other rule R6 names. -/
  | halfAway
  /-- `q + 1/2` truncated toward zero, the second R6 names. -/
  | truncHalf
  /-- To the nearest integer, a tie going to the even one, the third R6 names. -/
  | halfEven
  /-- Any other function, by number: a FREE VALUE, see `otherRound` (log entry 11). -/
  | other (k : Nat)
  deriving DecidableEq, Repr

/-- `SHIFT`: `>>` on a negative integer (R3, R5, D24, U6). -/
inductive Shift where
  /-- The floor, that is the arithmetic shift, the decided value (D24). -/
  | floor
  /-- Truncation toward zero, the reading R139 weighs against it. -/
  | truncate
  /-- Any other function, by number: a FREE VALUE, see `otherShift` (log entry 11). -/
  | other (k : Nat)
  deriving DecidableEq, Repr

/-- The parameters of R3 that are not fixed by the source. They stand in `State` as a field that no
step and no host move writes (R24), so that a statement about every state is a statement about every
value of them (log entry 1). The bounds are part of the type. -/
structure Params where
  /-- `SLOTCAP`: the most samples one plane of one slot can hold. OPEN (D4). -/
  slotCap  : Nat
  /-- `MEMBYTES`: the size of the byte memory in bytes. OPEN (D5). -/
  memBytes : Nat
  /-- `NBUF`: the number of buffer slots (D3). -/
  nbuf     : Nat := 4
  /-- `NCMD`: the number of entries of the command store (D6). -/
  ncmd     : Nat := 256
  /-- `ARITH` (D17). -/
  arith    : Arith := .exact
  /-- `ROUND` (D18). -/
  round    : Rounding := .floorHalf
  /-- `SHIFT` (D24). -/
  shift    : Shift := .floor
  /-- "at most 2^32" (R3, R30). -/
  memBytes_le : memBytes ≤ 2 ^ 32
  /-- A slot index is a field of 4 bits (R51). DEDUCED (log entry 11). -/
  nbuf_le     : nbuf ≤ 16 := by decide
  /-- A run begins at entry 0 (R20), and `pc + 1` never overflows 16 bits, which R17 rests on
  `NCMD < 2^16`. DEDUCED (log entry 11). -/
  ncmd_bounds : 1 ≤ ncmd ∧ ncmd < 2 ^ 16 := by decide
  deriving DecidableEq, Repr

/-- `ARITH` and `ROUND` have the values R3 decides: what the rules derived of the resamplers rest on
(R95, R100, R111, R127). -/
abbrev Params.DecidedReals (p : Params) : Prop := p.arith = .exact ∧ p.round = .floorHalf

/-- The parameters of `State.reset`: the two sizes `95_test_vectors.md` assumes, DESIGN CHOICE, unsafe
(log entry 2), since R3 leaves them OPEN; and R3's decided values. -/
def Params.vectors : Params := { slotCap := 64, memBytes := 1024, memBytes_le := by decide }

/-! ## Free values: the parameters' other choices (log entry 11)

None has a body, so nothing can be proved of one. Each is a function of everything the formula it
stands for is computed from. -/

/-- FREE VALUE: `Cubic(A, B, C, D, t)` (R90) in an arithmetic that is not exact. -/
opaque otherCubic (k : Nat) (A B C D t : Rat) : Rat

/-- FREE VALUE: the blend of four corners (R100) in an arithmetic that is not exact. -/
opaque otherBlend (k : Nat) (p11 p12 p21 p22 : Int) (fx fy : Rat) : Rat

/-- FREE VALUE: the source coordinate of a destination pixel (R105) in an arithmetic that is not
exact. -/
opaque otherCoord (k : Nat) (x sw tw : Nat) : Rat

/-- FREE VALUE: `u - 1/2` (R92, R100) in an arithmetic that is not exact. -/
opaque otherOffset (k : Nat) (u : Rat) : Rat

/-- FREE VALUE: `q - floor(q)` (R92, R100) in an arithmetic that is not exact. -/
opaque otherFrac (k : Nat) (q : Rat) : Rat

/-- FREE VALUE: "rounded to integer" (R6) by a function R3 and R6 do not name. -/
opaque otherRound (k : Nat) (q : Rat) : Int

/-- FREE VALUE: `v >> n` for a negative `v` (R5) by a function R3 and R139 do not name. -/
opaque otherShift (k : Nat) (v : Int) (n : Nat) : Int

/-! ## Free values: the memories after a power-on reset -/

/-- FREE VALUE: the byte the byte memory holds at an address after a power-on reset ("unspecified:
any bytes", R190, U1) until something writes it. It has no body, so nothing can be proved of it
(log entry 3, safe). -/
opaque powerOnByte : Nat → Byte

/-- FREE VALUE: the 128-bit value the command store holds at an index after a power-on reset
("unspecified: any 128-bit values", R190, U1) until the host writes it (log entry 3, safe). -/
opaque powerOnCommand : Nat → Command

end Sys2Proof.Config
end

