-- ==== Sys2Proof/Syntax.lean ====
section
/-! DEFINITION. The PRB command set, version 1 (`00_scope.md` R2): eleven commands, one constructor
per row of spec/opcode_table.json. -/

namespace Sys2Proof

/-- A slot operand, `B0` to `B(NBUF-1)` (`10_state.md` R12): the value of a 4-bit field (R51). That it
is below `NBUF` is `Instr.WellFormed`. -/
abbrev Slot := Fin 16

/-- One command with its operands in the order of the assembler syntax (`30_encoding.md` R57). Every
operand field is an unsigned integer and a field's value is the operand (R51); that a value fits its
field is `Instr.WellFormed`. -/
inductive Instr where
  /-- `UNPACK1 Bd, w, h, maxval, addr, len` (R71). -/
  | unpack1 (d : Slot) (w h maxval addr len : Nat)
  /-- `UNPACK3 Bd, w, h, maxval, addr, len` (R72). -/
  | unpack3 (d : Slot) (w h maxval addr len : Nat)
  /-- `PACK Bs, addr` (R73). -/
  | pack (src : Slot) (addr : Nat)
  /-- `RESIZE.BC Bd, Bs, tw, th` (R107). -/
  | resizeBc (d src : Slot) (tw th : Nat)
  /-- `RESIZE.BL Bd, Bs, tw, th` (R110). -/
  | resizeBl (d src : Slot) (tw th : Nat)
  /-- `DEMOSAIC.BC Bd, Bs` (R124). -/
  | demosaicBc (d src : Slot)
  /-- `DEMOSAIC.BL Bd, Bs` (R125). -/
  | demosaicBl (d src : Slot)
  /-- `RGB2YCC Bd, Bs` (R136). -/
  | rgb2ycc (d src : Slot)
  /-- `YCC2RGB Bd, Bs` (R141). -/
  | ycc2rgb (d src : Slot)
  /-- `FREE Bd` (R150). -/
  | free (d : Slot)
  /-- `HALT` (R151). -/
  | halt
  deriving DecidableEq, Repr

/-- The mnemonic of a command, letter for letter as spec/opcode_table.json has it. -/
def Instr.mnemonic : Instr → String
  | .unpack1 .. => "UNPACK1"
  | .unpack3 .. => "UNPACK3"
  | .pack .. => "PACK"
  | .resizeBc .. => "RESIZE.BC"
  | .resizeBl .. => "RESIZE.BL"
  | .demosaicBc .. => "DEMOSAIC.BC"
  | .demosaicBl .. => "DEMOSAIC.BL"
  | .rgb2ycc .. => "RGB2YCC"
  | .ycc2rgb .. => "YCC2RGB"
  | .free .. => "FREE"
  | .halt => "HALT"

end Sys2Proof
end

