-- ==== Sys2Proof/WellFormed.lean ====
section
/-! DEFINITION. When a command can be written in its 128 bits: every operand fits its field
(`30_encoding.md` R51) and every slot operand names a slot (R53). An operand outside its legal RANGE (a
width of 0, say) is well formed: the command is legal and faults when it executes. -/

namespace Sys2Proof

/-- A value fits an unsigned field of the given width. -/
abbrev fits (width v : Nat) : Prop := v < 2 ^ width

/-- `maxval`, `hi16` and `lo16` are 16 bits wide, `addr` and `len` 32 (R51). -/
abbrev UnpackOperands.fit (w h maxval addr len : Nat) : Prop :=
  fits 16 w ∧ fits 16 h ∧ fits 16 maxval ∧ fits 32 addr ∧ fits 32 len

/-- The slot operands of a command. -/
def Instr.slots : Instr → List Slot
  | .unpack1 d .. => [d]
  | .unpack3 d .. => [d]
  | .pack src _ => [src]
  | .resizeBc d src _ _ => [d, src]
  | .resizeBl d src _ _ => [d, src]
  | .demosaicBc d src => [d, src]
  | .demosaicBl d src => [d, src]
  | .rgb2ycc d src => [d, src]
  | .ycc2rgb d src => [d, src]
  | .free d => [d]
  | .halt => []

/-- Every operand of the command but its slots fits its field. -/
def Instr.operandsFit : Instr → Bool
  | .unpack1 _ w h maxval addr len => decide (UnpackOperands.fit w h maxval addr len)
  | .unpack3 _ w h maxval addr len => decide (UnpackOperands.fit w h maxval addr len)
  | .pack _ addr => decide (fits 32 addr)
  | .resizeBc _ _ tw th => decide (fits 16 tw ∧ fits 16 th)
  | .resizeBl _ _ tw th => decide (fits 16 tw ∧ fits 16 th)
  | .demosaicBc _ _ => true
  | .demosaicBl _ _ => true
  | .rgb2ycc _ _ => true
  | .ycc2rgb _ _ => true
  | .free _ => true
  | .halt => true

/-- The command can be written for a machine of `nbuf` slots: its operands fit and its slots exist. -/
def Instr.wellFormed (nbuf : Nat) (i : Instr) : Bool :=
  i.operandsFit && i.slots.all fun k => decide (k.val < nbuf)

/-- The same as a proposition. -/
abbrev Instr.WellFormed (nbuf : Nat) (i : Instr) : Prop := i.wellFormed nbuf = true

end Sys2Proof
end

