-- ==== Sys2Proof/Decode.lean ====
section
/-! DEFINITION. Decoding and encoding a 128-bit command (`30_encoding.md` R50 to R56): the fields, the
opcode table's match and mask values, the decoder with its four ordered tests, and the encoder. -/

namespace Sys2Proof

/-! ## Fields (R51) -/

/-- The fields of a command, each as the unsigned integer it holds (R51). `s` and `c` are the same
four bits, and `m` is bit 0 of `imm16`. -/
structure Fields where
  op    : Nat
  d     : Nat
  s     : Nat
  imm16 : Nat
  hi16  : Nat
  lo16  : Nat
  addr  : Nat
  len   : Nat
  deriving DecidableEq, Repr

/-- `C[lo+width-1 : lo]` as an unsigned integer. -/
def fieldAt (C : Command) (lo width : Nat) : Nat := (C.extractLsb' lo width).toNat

/-- The first lines of R56. -/
def fieldsOf (C : Command) : Fields where
  op    := fieldAt C 120 8
  d     := fieldAt C 116 4
  s     := fieldAt C 112 4
  imm16 := fieldAt C 96 16
  hi16  := fieldAt C 80 16
  lo16  := fieldAt C 64 16
  addr  := fieldAt C 32 32
  len   := fieldAt C 0 32

/-- `W0 ++ W1 ++ W2 ++ W3` with the fields in their places (R50, R51). -/
def Fields.command (f : Fields) : Command :=
  BitVec.ofNat 8 f.op ++ BitVec.ofNat 4 f.d ++ BitVec.ofNat 4 f.s ++ BitVec.ofNat 16 f.imm16 ++
  BitVec.ofNat 16 f.hi16 ++ BitVec.ofNat 16 f.lo16 ++ BitVec.ofNat 32 f.addr ++ BitVec.ofNat 32 f.len

/-- Four words as one command (R50). -/
def commandOfWords (W0 W1 W2 W3 : Word) : Command := W0 ++ W1 ++ W2 ++ W3

/-! ## The opcode table (R52, R53) -/

/-- The rows of the table of R53. -/
inductive Row where
  | unpack1 | unpack3 | pack | resizeBc | resizeBl | demosaicBc | demosaicBl
  | rgb2ycc | ycc2rgb | free | halt
  deriving DecidableEq, Repr

/-- Every row, in the table's order. -/
def Row.all : List Row :=
  [.unpack1, .unpack3, .pack, .resizeBc, .resizeBl, .demosaicBc, .demosaicBl, .rgb2ycc, .ycc2rgb,
   .free, .halt]

/-- The row's match value (R53, second table). -/
def Row.pattern : Row → Command
  | .unpack1    => 0x01010000000000000000000000000000#128
  | .unpack3    => 0x01030000000000000000000000000000#128
  | .pack       => 0x02000000000000000000000000000000#128
  | .resizeBc   => 0x03000000000000000000000000000000#128
  | .resizeBl   => 0x03000001000000000000000000000000#128
  | .demosaicBc => 0x04000000000000000000000000000000#128
  | .demosaicBl => 0x04000001000000000000000000000000#128
  | .rgb2ycc    => 0x05000000000000000000000000000000#128
  | .ycc2rgb    => 0x06000000000000000000000000000000#128
  | .free       => 0x07000000000000000000000000000000#128
  | .halt       => 0x08000000000000000000000000000000#128

/-- The row's mask value (R53, second table). -/
def Row.mask : Row → Command
  | .unpack1    => 0xFFCF0000000000000000000000000000#128
  | .unpack3    => 0xFFCF0000000000000000000000000000#128
  | .pack       => 0xFFFCFFFFFFFFFFFF00000000FFFFFFFF#128
  | .resizeBc   => 0xFFCCFFFF00000000FFFFFFFFFFFFFFFF#128
  | .resizeBl   => 0xFFCCFFFF00000000FFFFFFFFFFFFFFFF#128
  | .demosaicBc => 0xFFCCFFFFFFFFFFFFFFFFFFFFFFFFFFFF#128
  | .demosaicBl => 0xFFCCFFFFFFFFFFFFFFFFFFFFFFFFFFFF#128
  | .rgb2ycc    => 0xFFCCFFFFFFFFFFFFFFFFFFFFFFFFFFFF#128
  | .ycc2rgb    => 0xFFCCFFFFFFFFFFFFFFFFFFFFFFFFFFFF#128
  | .free       => 0xFFCFFFFFFFFFFFFFFFFFFFFFFFFFFFFF#128
  | .halt       => 0xFFFFFFFFFFFFFFFFFFFFFFFFFFFFFFFF#128

/-- "A command `C` is the mnemonic of the one row with `C AND mask = match`" (R53), the masks as the
table prints them, which is for `NBUF = 4`. -/
abbrev Row.matches (r : Row) (C : Command) : Prop := C &&& r.mask = r.pattern

/-- The bits of the slot fields of a row: `d` at 119 to 116, `s` at 115 to 112 (R51, R53). -/
def Row.slotFields : Row → Command
  | .unpack1 | .unpack3 | .free => 0x00F00000000000000000000000000000#128
  | .pack => 0x000F0000000000000000000000000000#128
  | .resizeBc | .resizeBl | .demosaicBc | .demosaicBl | .rgb2ycc | .ycc2rgb =>
    0x00FF0000000000000000000000000000#128
  | .halt => 0

/-- The same without "bits `[3:2]` of every slot field, which must be 0 because `NBUF = 4`" (R53): what
is left of the masks for any `NBUF`. Test 4 comes after test 2 and looks at these bits only ("other
than the slot-field bits of test 2", R55). -/
abbrev Row.matchesRest (r : Row) (C : Command) : Prop :=
  C &&& (r.mask &&& ~~~ r.slotFields) = r.pattern

/-- The opcodes whose `d` field is a slot (R56 `uses_d`). -/
def usesD (op : Nat) : Bool := op ∈ [0x01, 0x03, 0x04, 0x05, 0x06, 0x07]

/-- The opcodes whose `s` field is a slot (R56 `uses_s`). -/
def usesS (op : Nat) : Bool := op ∈ [0x02, 0x03, 0x04, 0x05, 0x06]

/-- The row selected by `op` alone, by `op` and `c` for 0x01, and by `op` and `m = imm16[0]` for 0x03
and 0x04 (R56, after the procedure). It is asked only for fields that passed tests 1 and 3. -/
def rowOf (f : Fields) : Row :=
  if f.op = 0x01 then (if f.s = 1 then .unpack1 else .unpack3)
  else if f.op = 0x02 then .pack
  else if f.op = 0x03 then (if f.imm16 % 2 = 0 then .resizeBc else .resizeBl)
  else if f.op = 0x04 then (if f.imm16 % 2 = 0 then .demosaicBc else .demosaicBl)
  else if f.op = 0x05 then .rgb2ycc
  else if f.op = 0x06 then .ycc2rgb
  else if f.op = 0x07 then .free
  else .halt

/-- A slot field, which is 4 bits, as a slot. -/
def slotOf (v : Nat) : Slot := Fin.ofNat 16 v

/-- The command of a row, its operands taken from the fields (R53, R57). -/
def Row.instr (r : Row) (f : Fields) : Instr :=
  match r with
  | .unpack1    => .unpack1 (slotOf f.d) f.lo16 f.hi16 f.imm16 f.addr f.len
  | .unpack3    => .unpack3 (slotOf f.d) f.lo16 f.hi16 f.imm16 f.addr f.len
  | .pack       => .pack (slotOf f.s) f.addr
  | .resizeBc   => .resizeBc (slotOf f.d) (slotOf f.s) f.lo16 f.hi16
  | .resizeBl   => .resizeBl (slotOf f.d) (slotOf f.s) f.lo16 f.hi16
  | .demosaicBc => .demosaicBc (slotOf f.d) (slotOf f.s)
  | .demosaicBl => .demosaicBl (slotOf f.d) (slotOf f.s)
  | .rgb2ycc    => .rgb2ycc (slotOf f.d) (slotOf f.s)
  | .ycc2rgb    => .ycc2rgb (slotOf f.d) (slotOf f.s)
  | .free       => .free (slotOf f.d)
  | .halt       => .halt

/-! ## Decoding (R55, R56) -/

/-- Why a command is illegal: the test of R55 that failed. -/
inductive DecodeError where
  /-- `op` is not one of 0x01 to 0x08. -/
  | opcode
  /-- A slot field the command uses is at or above `NBUF`. -/
  | slot
  /-- `op = 0x01` and `c` is neither 1 nor 3. -/
  | channels
  /-- A must-be-zero bit of R54 is 1. -/
  | reserved
  deriving DecidableEq, Repr

/-- The sub-code written to `ERRINFO` (R55, R161). -/
def DecodeError.subcode : DecodeError → Nat
  | .opcode => 1
  | .slot => 2
  | .channels => 3
  | .reserved => 4

/-- R56, for a machine of `nbuf` slots: the four tests in their order, then the command of the one row
left. -/
def decode (nbuf : Nat) (C : Command) : Except DecodeError Instr :=
  let f := fieldsOf C
  if f.op < 0x01 ∨ 0x08 < f.op then .error .opcode
  else if (usesD f.op ∧ nbuf ≤ f.d) ∨ (usesS f.op ∧ nbuf ≤ f.s) then .error .slot
  else if f.op = 0x01 ∧ f.s ≠ 1 ∧ f.s ≠ 3 then .error .channels
  else if (rowOf f).matchesRest C then .ok ((rowOf f).instr f)
  else .error .reserved

/-! ## Encoding (R53, R57) -/

/-- The fields a command sets; "every field not named is zero" (R57). -/
def Instr.fields : Instr → Fields
  | .unpack1 d w h maxval addr len =>
    { op := 0x01, d := d, s := 1, imm16 := maxval, hi16 := h, lo16 := w, addr := addr, len := len }
  | .unpack3 d w h maxval addr len =>
    { op := 0x01, d := d, s := 3, imm16 := maxval, hi16 := h, lo16 := w, addr := addr, len := len }
  | .pack src addr =>
    { op := 0x02, d := 0, s := src, imm16 := 0, hi16 := 0, lo16 := 0, addr := addr, len := 0 }
  | .resizeBc d src tw th =>
    { op := 0x03, d := d, s := src, imm16 := 0, hi16 := th, lo16 := tw, addr := 0, len := 0 }
  | .resizeBl d src tw th =>
    { op := 0x03, d := d, s := src, imm16 := 1, hi16 := th, lo16 := tw, addr := 0, len := 0 }
  | .demosaicBc d src =>
    { op := 0x04, d := d, s := src, imm16 := 0, hi16 := 0, lo16 := 0, addr := 0, len := 0 }
  | .demosaicBl d src =>
    { op := 0x04, d := d, s := src, imm16 := 1, hi16 := 0, lo16 := 0, addr := 0, len := 0 }
  | .rgb2ycc d src =>
    { op := 0x05, d := d, s := src, imm16 := 0, hi16 := 0, lo16 := 0, addr := 0, len := 0 }
  | .ycc2rgb d src =>
    { op := 0x06, d := d, s := src, imm16 := 0, hi16 := 0, lo16 := 0, addr := 0, len := 0 }
  | .free d =>
    { op := 0x07, d := d, s := 0, imm16 := 0, hi16 := 0, lo16 := 0, addr := 0, len := 0 }
  | .halt =>
    { op := 0x08, d := 0, s := 0, imm16 := 0, hi16 := 0, lo16 := 0, addr := 0, len := 0 }

/-- The 128-bit word of a well-formed command. -/
def encode (i : Instr) : Command := i.fields.command

/-! ## The table's own numbering of bits -/

/-- The command whose bits are `w`, numbered as spec/opcode_table.json numbers them: in the 128-bit
command `C = W0:W1:W2:W3` (`W0 = C[127:96]`), bit 0 the least significant. Every row of the table is
one 128-bit command, so a row's first "word" is the whole command (log entry 4). -/
def tableCommand (nbits w : Nat) : Command := BitVec.ofNat 128 (w % 2 ^ nbits)

/-- The instruction the decoder reads from those bits, none where it refuses. The table's masks are those
of `NBUF = 4` (R53). -/
def decodeTableWord (nbits w : Nat) : Option Instr :=
  match decode Config.Params.vectors.nbuf (tableCommand nbits w) with
  | .ok i => some i
  | .error _ => none

end Sys2Proof
end

