-- ==== Sys2Proof/Machine/State.lean ====
section
/-! DEFINITION. The architectural state of PRB (`10_state.md`), its reset (`70_reset_and_hazards.md`
R190), and the reasons a transition of the model can be turned away. -/

namespace Sys2Proof.Machine

/-! ## Pixel buffers (R11) -/

/-- One plane: its samples in row-major order, sample `(x, y)` at index `y*width + x` (R11). -/
abbrev Plane := List Sample

/-- "`planes` — either one plane (grey/mosaic) or three planes" (R11): plane 0, or planes 0, 1, 2. -/
inductive Planes where
  | one (p0 : Plane)
  | three (p0 p1 p2 : Plane)
  deriving DecidableEq, Repr

/-- A pixel buffer (R11). `B.planes` of the spec, the number 1 or 3, is which constructor `planes`
has. That the fields are legal and the planes have their length is `PixelBuffer.Legal`. -/
structure PixelBuffer where
  width  : Nat
  height : Nat
  maxval : Nat
  planes : Planes
  deriving DecidableEq, Repr

/-- The value of a slot: `Empty` or `Full(B)` (R12). -/
inductive SlotValue where
  | empty
  | full (B : PixelBuffer)
  deriving DecidableEq, Repr

/-! ## The engine -/

/-- The four states of the engine, held in `STATUS[1:0]` (R18). -/
inductive EngineState where
  | idle | running | halted | faulted
  deriving DecidableEq, Repr

/-- The value `STATUS[1:0]` holds (R18). -/
def EngineState.code : EngineState → BitVec 2
  | .idle => 0
  | .running => 1
  | .halted => 2
  | .faulted => 3

/-! ## The two memories -/

/-- The byte memory: the bytes something has written, addresses strictly rising (R30). An address the
list does not hold has no value IN THE LIST; what reading it gives is `State.readByte`. -/
abbrev Memory := List Host.Cell

/-- The command store: the entries the host has written, indices strictly rising (R38). -/
abbrev CommandStore := List (Nat × Command)

/-- The canonical form of either store: keys strictly rising, hence without repeats. An unlisted key
has no value, so no entry can repeat what an unlisted key reads as (log entry 3). -/
abbrev Cells.wf {α : Type} (m : List (Nat × α)) : Prop := m.Pairwise (fun p q => p.1 < q.1)

/-- The canonical form of the byte memory. -/
abbrev Memory.wf (m : Memory) : Prop := Cells.wf m

/-! ## The state -/

/-- The whole state of PRB (R10), and the parameters of R3, which nothing writes. -/
structure State where
  /-- The parameters of R3: configuration, taken as an argument (log entry 1). -/
  params  : Config.Params
  /-- The buffer slots (R12): `x[0]` to `x[NBUF-1]`, of the sixteen a slot field can name. The others do
  not exist; no fetched command names one (R55), and they stay `Empty` (`State.SlotsLegal`). -/
  slots   : Vector SlotValue 16
  /-- The command pointer, an index of commands (R17). -/
  pc      : BitVec 16
  /-- `STATUS[1:0]` (R18, R19). -/
  status  : EngineState
  /-- `ERR[3:0]`, the fault cause code, 0 for none (R19, R160). -/
  err     : BitVec 4
  /-- `ERRINFO[7:0]`, the sub-code of the fault (R19, R161). -/
  errInfo : BitVec 8
  /-- `ERRPC[15:0]`, the index of the faulting command (R19). -/
  errPc   : BitVec 16
  /-- The byte memory `mem` (R30). -/
  mem     : Memory
  /-- The command store `cmd` (R38). -/
  cmd     : CommandStore
  deriving DecidableEq, Repr

/-- R190, the power-on reset, for any value of the parameters: every slot `Empty`, `pc` 0, IDLE,
no fault recorded, and both memories unspecified, that is: nothing written yet. -/
def State.powerOn (p : Config.Params) : State where
  params  := p
  slots   := Vector.replicate 16 .empty
  pc      := 0
  status  := .idle
  err     := 0
  errInfo := 0
  errPc   := 0
  mem     := []
  cmd     := []

/-- The machine right after its power-on reset (R190). -/
def State.reset : State := State.powerOn Config.Params.vectors

/-! ## Why a transition has no next state -/

/-- The reasons the model could stop with a fault of its OWN: there are none. Every fault of the spec
(R160) has a described entry (R170), so a command that raises one takes a NEXT state, in which
`STATUS` is FAULTED; see `Cause` for those. No step of the model can end here. -/
inductive Fault where
  deriving DecidableEq, Repr

/-- Why the model turns a transition away. -/
inductive Refusal where
  /-- Raised by `exec` for an instruction that has no meaning yet; no arm raises it. Safe. -/
  | notModelled (mnemonic : String)
  /-- Raised by the host's moves on `mem`, `cmd` and slot samples while the engine is RUNNING: "PRB
  gives it no meaning" (R40), "refuse" (U2). No instruction and no step raises it. Safe. -/
  | hostAccessWhileRunning
  /-- Raised by the host's moves with an address at or above `MEMBYTES` or a command index at or above
  `NCMD`: "outside this spec" (R194), "refuse" (U3). No instruction and no step raises it. Safe. -/
  | hostAccessOutside
  deriving DecidableEq, Repr

/-- What a step, a command or a host move answers. -/
abbrev Result := Host.Outcome State Fault Refusal

end Sys2Proof.Machine
end

