-- ==== Sys2Proof/Machine/Arith.lean ====
section
/-! DEFINITION. The arithmetic primitives of `00_scope.md` section 5.2: clamping, the floor shift and
rounding, on unbounded integers and exact rationals (R4 to R7). -/

namespace Sys2Proof.Machine

/-- R4: `lo` when `v < lo`, `hi` when `v > hi`, else `v`. -/
def clamp (v lo hi : Int) : Int := if v < lo then lo else if hi < v then hi else v

/-- R4: "`clip8(v) = max(0, min(255, v))`". -/
def clip8 (v : Int) : Int := clamp v 0 255

/-- R5: `v >> n` is `floor(v / 2^n)`; on a negative `v` it is what the parameter `SHIFT` says, the floor
as R3 decides (U6). (`/` on `Int` is the floor when the divisor is positive.) -/
def shiftRight (m : Config.Shift) (v : Int) (n : Nat) : Int :=
  if 0 ≤ v then v / 2 ^ n
  else match m with
    | .floor => v / 2 ^ n
    | .truncate => -(-v / 2 ^ n)
    | .other k => Config.otherShift k v n

/-- R6: `round(q)` at the value R3 decides, `floor(q + 1/2)`, a tie going up. -/
def roundHalfUp (q : Rat) : Int := (q + 1 / 2).floor

/-- A rational truncated toward zero. -/
def truncate (q : Rat) : Int := if 0 ≤ q then q.floor else -(-q).floor

/-- `round(q)` by the parameter `ROUND` (R3, U9); `floor(q + 1/2)` as R3 decides (R6). -/
def roundTo (m : Config.Rounding) (q : Rat) : Int :=
  match m with
  | .floorHalf => roundHalfUp q
  | .halfAway => if 0 ≤ q then roundHalfUp q else -roundHalfUp (-q)
  | .truncHalf => truncate (q + 1 / 2)
  | .halfEven =>
    if q + 1 / 2 = roundHalfUp q ∧ roundHalfUp q % 2 ≠ 0 then roundHalfUp q - 1 else roundHalfUp q
  | .other k => Config.otherRound k q

/-- `frac(q) = q - floor(q)` (section 5.1). -/
def frac (q : Rat) : Rat := q - (q.floor : Rat)

/-- An integer as a stored 16-bit sample. Exact for 0 to 65535, the only values the rules store
(R7(c)). -/
def sampleOfInt (v : Int) : Sample := BitVec.ofInt 16 v

/-- A stored sample as the integer it is (R7(b): unsigned, zero-extended). -/
def sampleInt (v : Sample) : Int := (v.toNat : Int)

end Sys2Proof.Machine
end

