-- ==== Sys2Proof/Machine/Ops.lean ====
section
/-! DEFINITION. The named operations on the state: the two memories, the slots, the command pointer,
command fetch, and THE FAULT ENTRY (`60_exceptions.md` R170), which every fault of every command and
of the step itself goes through. -/

namespace Sys2Proof.Machine

/-! ## Sorted stores -/

/-- The value a store lists at a key, none where it lists none. -/
def Cells.get? {α : Type} : List (Nat × α) → Nat → Option α
  | [], _ => none
  | (k, v) :: rest, a => if k = a then some v else Cells.get? rest a

/-- Write one key, keeping the keys strictly rising. -/
def Cells.set {α : Type} : List (Nat × α) → Nat → α → List (Nat × α)
  | [], a, b => [(a, b)]
  | (k, v) :: rest, a, b =>
    if a < k then (a, b) :: (k, v) :: rest
    else if a = k then (a, b) :: rest
    else (k, v) :: Cells.set rest a b

/-- Write consecutive keys, the first at the lowest. -/
def Cells.setMany {α : Type} (m : List (Nat × α)) (a : Nat) : List α → List (Nat × α)
  | [] => m
  | b :: bs => Cells.setMany (Cells.set m a b) (a + 1) bs

/-! ## The byte memory (R30, R32, R33, R36) -/

/-- `mem[a]`: the byte last written there, or the unspecified byte the power-on reset left (R190). -/
def State.readByte (s : State) (a : Nat) : Byte :=
  (Cells.get? s.mem a).getD (Config.powerOnByte a)

/-- `mem[a] <- b`. -/
def State.writeByte (s : State) (a : Nat) (b : Byte) : State :=
  { s with mem := Cells.set s.mem a b }

/-- `MemRead(addr, n)`: the bytes from `addr`, lowest address first. -/
def State.memRead (s : State) (addr n : Nat) : List Byte :=
  (List.range n).map fun q => s.readByte (addr + q)

/-- `MemWrite(addr, n, bs)`: `mem[addr+i] <- bs[i]`. -/
def State.memWrite (s : State) (addr : Nat) (bs : List Byte) : State :=
  { s with mem := Cells.setMany s.mem addr bs }

/-- R33: the test `addr + n <= MEMBYTES`, the sum unbounded. -/
abbrev State.inMemory (s : State) (addr n : Nat) : Prop := addr + n ≤ s.params.memBytes

/-! ## The command store (R38) -/

/-- `cmd[i]`: what the host last wrote there, or the unspecified value the power-on reset left. -/
def State.readCommand (s : State) (i : Nat) : Command :=
  (Cells.get? s.cmd i).getD (Config.powerOnCommand i)

/-- `cmd[i] <- C`; only the host does this (R42). -/
def State.writeCommand (s : State) (i : Nat) (C : Command) : State :=
  { s with cmd := Cells.set s.cmd i C }

/-! ## Slots (R12, R14) -/

/-- `x[k]`. -/
def State.slot (s : State) (k : Slot) : SlotValue := s.slots.get k

/-- `x[k] <- v`: the whole slot is replaced. -/
def State.setSlot (s : State) (k : Slot) (v : SlotValue) : State :=
  { s with slots := s.slots.set k.val v k.isLt }

/-! ## The command pointer (R17) -/

/-- `pc <- pc + 1`. -/
def State.advance (s : State) : State := { s with pc := s.pc + 1 }

/-- A command that completes without a fault and is not `HALT`. -/
def complete (s : State) : Result := .next s.advance

/-! ## The fault entry (R160, R161, R170) -/

/-- The fault causes (R160). -/
inductive Cause where
  | formatError | dimensionError | allocationError | ioError | illegalCommand
  | emptySlot | planeCountError | slotConflict | fetchError
  deriving DecidableEq, Repr

/-- The code written to `ERR[3:0]` (R160). -/
def Cause.code : Cause → BitVec 4
  | .formatError => 1
  | .dimensionError => 2
  | .allocationError => 3
  | .ioError => 4
  | .illegalCommand => 5
  | .emptySlot => 6
  | .planeCountError => 7
  | .slotConflict => 8
  | .fetchError => 9

/-- The state after `raise <Fault>(info)` (R170): `ERR`, `ERRINFO`, `ERRPC` and `STATUS` are written
and nothing else is; `pc` keeps the index of the faulting command. -/
def State.raise (s : State) (f : Cause) (info : Nat) : State :=
  { s with err := f.code, errInfo := BitVec.ofNat 8 info, errPc := s.pc, status := .faulted }

/-- Taking a fault: the entry is atomic and is the command's only effect (R170). There is no return
from a fault (R173); the way out is the host's reset, `State.softReset`. -/
def trap (s : State) (f : Cause) (info : Nat) : Result := .next (s.raise f info)

/-! ## Command fetch (R153 lines 1 to 3) -/

/-- What the fetch at `pc` gives: the command to execute, or the fault the fetch itself raises,
`FetchError` past the end of the store (R168) or `IllegalCommand` with its sub-code (R55). -/
def State.fetch (s : State) : Except (Cause × Nat) Instr :=
  if s.params.ncmd ≤ s.pc.toNat then .error (.fetchError, 0)
  else match decode s.params.nbuf (s.readCommand s.pc.toNat) with
    | .error e => .error (.illegalCommand, e.subcode)
    | .ok i => .ok i

end Sys2Proof.Machine
end

