-- ==== Sys2Proof/Machine/Operands.lean ====
section
/-! DEFINITION. The operand forms of the commands: the source slot and the tests on it, reading and
building pixel buffers, the sample byte width and byte order, and the payload layout
(`10_state.md` R11 to R15, `20_memory.md` R31, R32, R35). -/

namespace Sys2Proof.Machine

/-! ## Planes and samples (R11) -/

/-- Sample `i` of a plane. An index past the plane's end cannot occur while the plane has its length
(R15(a)); the function is made total with 0 there (log entry 5). -/
def Plane.sample (p : Plane) (i : Nat) : Sample := p.getD i 0

/-- A plane of `n` samples from a function of the index. -/
def Plane.tabulate (n : Nat) (f : Nat → Sample) : Plane := (List.range n).map f

/-- `B.planes` as a number: 1 or 3 (R11). -/
def Planes.count : Planes → Nat
  | .one _ => 1
  | .three _ _ _ => 3

/-- The planes in order. -/
def Planes.toList : Planes → List Plane
  | .one p0 => [p0]
  | .three p0 p1 p2 => [p0, p1, p2]

/-- `B.P[c]`, the empty plane where there is no plane `c`. -/
def Planes.plane (P : Planes) (c : Nat) : Plane := P.toList.getD c []

/-- Each plane through a function, none looking at another ("evaluates the selected sampler per plane
independently", R106). -/
def Planes.map (f : Plane → Plane) : Planes → Planes
  | .one p0 => .one (f p0)
  | .three p0 p1 p2 => .three (f p0) (f p1) (f p2)

/-- The two payload formats: single-plane, `c = 1`, and three-plane, `c = 3` (R35, R53). -/
inductive Format where
  | single | three
  deriving DecidableEq, Repr

/-- The channel count `c` (R35). -/
def Format.channels : Format → Nat
  | .single => 1
  | .three => 3

/-- Planes `0 .. c-1` of a format, from a function of the plane's number. -/
def Format.planes (c : Format) (f : Nat → Plane) : Planes :=
  match c with
  | .single => .one (f 0)
  | .three => .three (f 0) (f 1) (f 2)

/-! ## Invariants of a buffer (R11, R15, R16) -/

/-- Every sample of every plane is at most `m`, as a test on the lists (so that it evaluates). -/
abbrev PixelBuffer.samplesAtMost (B : PixelBuffer) (m : Nat) : Prop :=
  (B.planes.toList.all fun p => p.all fun v => decide (v.toNat ≤ m)) = true

/-- The legal values of R11 and the invariants R15(a), R15(c) and R16 of a buffer held in a slot.
R15(b) and R15(d) hold by the type. -/
abbrev PixelBuffer.Legal (cap : Nat) (B : PixelBuffer) : Prop :=
  (1 ≤ B.width ∧ B.width ≤ Config.dimMax) ∧
  (1 ≤ B.height ∧ B.height ≤ Config.dimMax) ∧
  (1 ≤ B.maxval ∧ B.maxval ≤ Config.maxvalMax) ∧
  (∀ p ∈ B.planes.toList, p.length = B.width * B.height) ∧
  B.width * B.height ≤ cap ∧
  (B.maxval ≤ 255 → B.samplesAtMost 255)

/-- "every sample lies in `[0, maxSampleValue]`", the invariant R15 keeps for some commands only. -/
abbrev PixelBuffer.InRange (B : PixelBuffer) : Prop := B.samplesAtMost B.maxval

/-! ## Source and destination slots (R13, R14) -/

/-- Run `k` on the buffer of slot `src`, or raise `EmptySlot` and do nothing else (R13). -/
def withSource (s : State) (src : Slot) (k : PixelBuffer → Result) : Result :=
  match s.slot src with
  | .empty => trap s .emptySlot 0
  | .full B => k B

/-- The shared opening of every command with both a `d` and an `s` slot: `SlotConflict` first, "even
when the slot is empty" (R167), then `EmptySlot` (R106, R126, R135 lines 1, 2). -/
def withDistinctSource (s : State) (d src : Slot) (k : PixelBuffer → Result) : Result :=
  if d = src then trap s .slotConflict 0 else withSource s src k

/-- `x[d] <- Full(B)`, then `pc <- pc + 1`: the last line of every command that makes a buffer. -/
def deliver (s : State) (d : Slot) (B : PixelBuffer) : Result := complete (s.setSlot d (.full B))

/-! ## Width of a sample in the byte memory, byte order (R31, R32) -/

/-- `sb(maxval)`: 1 when `maxval <= 255`, else 2 (R31). -/
def sampleBytes (maxval : Nat) : Nat := if maxval ≤ 255 then 1 else 2

/-- The length of a payload, unbounded: `n = w*h*c*sb(m)` (R35). -/
def payloadLength (w h c maxval : Nat) : Nat := w * h * c * sampleBytes maxval

/-- Sample number `j` of the payload at `addr`: one byte, or two with the more significant at the
lower address (R32, R35, R70 lines 12, 13). -/
def State.payloadSample (s : State) (addr maxval j : Nat) : Sample :=
  if sampleBytes maxval = 1 then (s.readByte (addr + j)).zeroExtend 16
  else s.readByte (addr + 2 * j) ++ s.readByte (addr + (2 * j + 1))

/-- The bytes of one sample, lowest address first: `v[7:0]`, or `v[15:8]` then `v[7:0]` (R32, R73
lines 8, 9). -/
def bytesOfSample (maxval : Nat) (v : Sample) : List Byte :=
  if sampleBytes maxval = 1 then [v.extractLsb' 0 8] else [v.extractLsb' 8 8, v.extractLsb' 0 8]

/-- The payload of a buffer: pixel after pixel in row-major order, the channels of a pixel together
(R35, R73 lines 6 to 9). -/
def PixelBuffer.payload (B : PixelBuffer) : List Byte :=
  (List.range (B.width * B.height)).flatMap fun i =>
    B.planes.toList.flatMap fun p => bytesOfSample B.maxval (p.sample i)

end Sys2Proof.Machine
end

