-- ==== Sys2Proof/Machine/Flags.lean ====
section
/-! DEFINITION. PRB has no flags, condition codes or predicates, and no command sets a status bit but
through a fault or `HALT` (`10_state.md` R23). What stands in the place of a flag computation is
here: how the status and descriptor registers of R19 are formed from the state. -/

namespace Sys2Proof.Machine

/-- `BSTAT_k`: bit 0 `valid`, bits 2:1 `planes`, 0 when empty (R19). -/
def SlotValue.bstat : SlotValue → Word
  | .empty => 0
  | .full B => (BitVec.ofNat 2 B.planes.count ++ 1#1).zeroExtend 32

/-- `BDIM_k`: bits 14:0 `width`, bits 30:16 `height`, 0 when empty (R19). -/
def SlotValue.bdim : SlotValue → Word
  | .empty => 0
  | .full B => 0#1 ++ BitVec.ofNat 15 B.height ++ 0#1 ++ BitVec.ofNat 15 B.width

/-- `BMAX_k`: bits 15:0 `maxval`, 0 when empty (R19). -/
def SlotValue.bmax : SlotValue → Word
  | .empty => 0
  | .full B => (BitVec.ofNat 16 B.maxval).zeroExtend 32

/-- The four registers of one slot's descriptor, by number modulo 4; the fourth is reserved and
"reads 0" (R19). -/
def SlotValue.descriptor (x : SlotValue) (n : Nat) : Word :=
  match n % 4 with
  | 0 => x.bstat
  | 1 => x.bdim
  | 2 => x.bmax
  | _ => 0

/-- The register of the host's register space with number `n` (R19): `CTRL` reads 0, a field narrower
than 32 bits is zero-extended, the descriptors are views of the `NBUF` slots, and "a read of any other
number returns 0". -/
def State.register (s : State) (n : BitVec 8) : Word :=
  match n.toNat with
  | 0x00 => 0
  | 0x01 => s.status.code.zeroExtend 32
  | 0x02 => s.pc.zeroExtend 32
  | 0x03 => s.err.zeroExtend 32
  | 0x04 => s.errInfo.zeroExtend 32
  | 0x05 => s.errPc.zeroExtend 32
  | m =>
    if 0x10 ≤ m ∧ m < 0x10 + 4 * s.params.nbuf then (s.slot (Fin.ofNat 16 ((m - 0x10) / 4))).descriptor m
    else 0

end Sys2Proof.Machine
end

