-- ==== Sys2Proof/Machine/ColorMatrix.lean ====
section
/-! DEFINITION. The rgb_to_ycbcr_matrix and the ycbcr_to_rgb_matrix: `RGB2YCC`, `YCC2RGB`
(`44_color_matrix.md`). Every quantity is an unbounded integer (R138); `>>` on a negative
one is the parameter `SHIFT` of R3. -/

namespace Sys2Proof.Machine

/-! ## The formulae -/

/-- `Y` of R136. -/
def rgbY (sh : Config.Shift) (R G B : Int) : Int :=
  clip8 (shiftRight sh (19595 * R + 38470 * G + 7471 * B) 16)

/-- `Cb` of R136, with the `Y` the first line produced, after `clip8`. -/
def rgbCb (sh : Config.Shift) (R G B : Int) : Int :=
  clip8 (shiftRight sh (36962 * (B - rgbY sh R G B)) 16 + 128)

/-- `Cr` of R136, with the `Y` the first line produced, after `clip8`. -/
def rgbCr (sh : Config.Shift) (R G B : Int) : Int :=
  clip8 (shiftRight sh (46727 * (R - rgbY sh R G B)) 16 + 128)

/-- `R` of R141. -/
def yccR (sh : Config.Shift) (Y _Cb Cr : Int) : Int := clip8 (Y + shiftRight sh (91881 * Cr) 16 - 179)

/-- `G` of R141: the two products are added first and the sum is shifted once. -/
def yccG (sh : Config.Shift) (Y Cb Cr : Int) : Int :=
  clip8 (Y - shiftRight sh (22544 * Cb + 46793 * Cr) 16 + 135)

/-- `B` of R141. -/
def yccB (sh : Config.Shift) (Y Cb _Cr : Int) : Int := clip8 (Y + shiftRight sh (116129 * Cb) 16 - 226)

/-! ## The commands -/

/-- One plane of the result: sample `i` a function of sample `i` of the three source planes (R135). -/
def mixPlane (B : PixelBuffer) (f : Int → Int → Int → Int) : Plane :=
  Plane.tabulate (B.width * B.height) fun i =>
    sampleOfInt (f (sampleInt ((B.planes.plane 0).sample i)) (sampleInt ((B.planes.plane 1).sample i))
      (sampleInt ((B.planes.plane 2).sample i)))

/-- The result of a colour command: `B`'s width, height and `maxval`, and three planes (R135). -/
def mixBuffer (B : PixelBuffer) (f0 f1 f2 : Int → Int → Int → Int) : PixelBuffer :=
  { B with planes := .three (mixPlane B f0) (mixPlane B f1) (mixPlane B f2) }

/-- `RGB2YCC` of a whole buffer (R136). -/
def rgbToYcc (sh : Config.Shift) (B : PixelBuffer) : PixelBuffer :=
  mixBuffer B (rgbY sh) (rgbCb sh) (rgbCr sh)

/-- `YCC2RGB` of a whole buffer (R141). -/
def yccToRgb (sh : Config.Shift) (B : PixelBuffer) : PixelBuffer :=
  mixBuffer B (yccR sh) (yccG sh) (yccB sh)

/-- The shared checks of the two commands, in order, and their one write (R135, lines 1 to 4). -/
def colorCommand (f : PixelBuffer → PixelBuffer) (d src : Slot) (s : State) : Result :=
  withDistinctSource s d src fun B =>
    if B.planes.count ≠ 3 then trap s .planeCountError 0
    else deliver s d (f B)

/-- `RGB2YCC` (R136). -/
def execRgb2ycc (d src : Slot) (s : State) : Result :=
  colorCommand (rgbToYcc s.params.shift) d src s

/-- `YCC2RGB` (R141). -/
def execYcc2rgb (d src : Slot) (s : State) : Result :=
  colorCommand (yccToRgb s.params.shift) d src s

end Sys2Proof.Machine
end

