-- ==== Sys2Proof/Machine/Control.lean ====
section
/-! DEFINITION. The sequencer's own commands: `FREE`, `HALT` (`45_control.md`). -/

namespace Sys2Proof.Machine

/-- `FREE` (R150): the slot becomes `Empty`; freeing an empty slot changes nothing but `pc`. -/
def execFree (d : Slot) (s : State) : Result := complete (s.setSlot d .empty)

/-- `HALT` (R151): `STATUS <- HALTED`; `pc` is left at the index of the `HALT`. -/
def execHalt (s : State) : Result := .next { s with status := .halted }

end Sys2Proof.Machine
end

