-- ==== Sys2Proof/Machine/Resampler.lean ====
section
/-! DEFINITION. The bicubic_resampler and the bilinear_resampler: `RESIZE.BC`, `RESIZE.BL`
(`42_resampler.md`). Their real-valued arithmetic and their rounding are the parameters `ARITH` and
`ROUND` of R3. -/

namespace Sys2Proof.Machine

/-! ## Real-valued steps (`ARITH`)

Each is the rule's formula at the value R3 decides; in another arithmetic its value is free, a function
of the same operands (log entry 11). -/

/-- `Cubic(A, B, C, D, t) = a*t^3 + b*t^2 + c*t + d` (R90). -/
def cubic (ar : Config.Arith) (A B C D t : Rat) : Rat :=
  match ar with
  | .exact =>
    let a := -A / 2 + 3 * B / 2 - 3 * C / 2 + D / 2
    let b := A - 5 * B / 2 + 2 * C - D / 2
    let c := -A / 2 + C / 2
    let d := B
    a * t ^ 3 + b * t ^ 2 + c * t + d
  | .other k => Config.otherCubic k A B C D t

/-- `u - 1/2` (R92, R100). -/
def offset (ar : Config.Arith) (u : Rat) : Rat :=
  match ar with
  | .exact => u - 1 / 2
  | .other k => Config.otherOffset k u

/-- `frac(u - 1/2)`, of the offset coordinate (R92, R100). -/
def fraction (ar : Config.Arith) (q : Rat) : Rat :=
  match ar with
  | .exact => frac q
  | .other k => Config.otherFrac k q

/-- The weighted blend of four corners by the fractions `fx`, `fy` (R100). -/
def blend (ar : Config.Arith) (p11 p12 p21 p22 : Int) (fx fy : Rat) : Rat :=
  match ar with
  | .exact => (1 - fy) * ((1 - fx) * p11 + fx * p12) + fy * ((1 - fx) * p21 + fx * p22)
  | .other k => Config.otherBlend k p11 p12 p21 p22 fx fy

/-- The source coordinate, along one axis, of destination pixel `x`: `(2*x + 1)*sw / (2*tw)` (R105). -/
def sourceCoord (ar : Config.Arith) (x sw tw : Nat) : Rat :=
  match ar with
  | .exact => (2 * (x : Rat) + 1) * sw / (2 * tw)
  | .other k => Config.otherCoord k x sw tw

/-! ## The samplers -/

/-- `px(i, j)`: the sample at column `i` and row `j`, each clamped into the plane on its own (R93). -/
def Plane.px (p : Plane) (width height : Nat) (i j : Int) : Int :=
  sampleInt <| p.sample
    (clamp j 0 (height - 1) * width + clamp i 0 (width - 1)).toNat

/-- `H[r]` of R93: row `j` of the neighbourhood reduced along the horizontal axis, not rounded and
not clamped. -/
def Plane.cubicRow (ar : Config.Arith) (p : Plane) (width height : Nat) (ix j : Int) (tx : Rat) : Rat :=
  cubic ar (p.px width height (ix - 1) j) (p.px width height ix j)
    (p.px width height (ix + 1) j) (p.px width height (ix + 2) j) tx

/-- `val` of R93 at `(u, v)`: the floor position is the second of the four taps in each axis (R92),
rows `iy-1 .. iy+2` first, then the column of the four intermediate values. -/
def Plane.cubicAt (ar : Config.Arith) (p : Plane) (width height : Nat) (u v : Rat) : Rat :=
  let ix := (offset ar u).floor
  let tx := fraction ar (offset ar u)
  let iy := (offset ar v).floor
  let ty := fraction ar (offset ar v)
  cubic ar (p.cubicRow ar width height ix (iy - 1) tx) (p.cubicRow ar width height ix iy tx)
    (p.cubicRow ar width height ix (iy + 1) tx) (p.cubicRow ar width height ix (iy + 2) tx) ty

/-- `SampleBicubic(plane, u, v, width, height, maxval) = clamp(round(val), 0, maxval)` (R94). -/
def sampleBicubic (pr : Config.Params) (p : Plane) (u v : Rat) (width height maxval : Nat) : Int :=
  clamp (roundTo pr.round (p.cubicAt pr.arith width height u v)) 0 maxval

/-- `SampleBilinear(p11, p12, p21, p22, x, y)` (R100): rounded, and not clamped to `maxval`. -/
def sampleBilinear (pr : Config.Params) (p11 p12 p21 p22 : Int) (x y : Rat) : Int :=
  let fx := fraction pr.arith (offset pr.arith x)
  let fy := fraction pr.arith (offset pr.arith y)
  roundTo pr.round (blend pr.arith p11 p12 p21 p22 fx fy)

/-- `BilinearAt(plane, u, v, width, height)` (R101): all four corner reads clamped, on all four
sides. -/
def bilinearAt (pr : Config.Params) (p : Plane) (u v : Rat) (width height : Nat) : Int :=
  let ix := (offset pr.arith u).floor
  let iy := (offset pr.arith v).floor
  sampleBilinear pr (p.px width height ix iy) (p.px width height (ix + 1) iy)
    (p.px width height ix (iy + 1)) (p.px width height (ix + 1) (iy + 1)) u v

/-! ## Resize -/

/-- The reconstruction filter, the mode field `m` of the command: 0 bicubic, 1 bilinear (R51). -/
inductive Filter where
  | bicubic | bilinear
  deriving DecidableEq, Repr

/-- The value of destination pixel `(x, y)` of one plane (R106). -/
def resizeSample (pr : Config.Params) (m : Filter) (B : PixelBuffer) (tw th : Nat) (p : Plane)
    (x y : Nat) : Int :=
  let u := sourceCoord pr.arith x B.width tw
  let v := sourceCoord pr.arith y B.height th
  match m with
  | .bicubic => sampleBicubic pr p u v B.width B.height B.maxval
  | .bilinear => bilinearAt pr p u v B.width B.height

/-- One resized plane: `Q[c][y*tw + x]` for every `x < tw`, `y < th` (R106). -/
def resizePlane (pr : Config.Params) (m : Filter) (B : PixelBuffer) (tw th : Nat) (p : Plane) : Plane :=
  Plane.tabulate (tw * th) fun i => sampleOfInt (resizeSample pr m B tw th p (i % tw) (i / tw))

/-- `Resize(B, tw, th, m)` (R106). -/
def resizeBuffer (pr : Config.Params) (B : PixelBuffer) (tw th : Nat) (m : Filter) : PixelBuffer where
  width  := tw
  height := th
  maxval := B.maxval
  planes := B.planes.map (resizePlane pr m B tw th)

/-- The shared checks of the two commands, in order, and their one write (R106, lines 1 to 6). -/
def resize (m : Filter) (d src : Slot) (tw th : Nat) (s : State) : Result :=
  withDistinctSource s d src fun B =>
    if tw < 1 ∨ Config.dimMax < tw then trap s .dimensionError 1
    else if th < 1 ∨ Config.dimMax < th then trap s .dimensionError 2
    else if s.params.slotCap < tw * th then trap s .allocationError 0
    else deliver s d (resizeBuffer s.params B tw th m)

/-- `RESIZE.BC` (R107): `m = 0`. -/
def execResizeBc (d src : Slot) (tw th : Nat) (s : State) : Result := resize .bicubic d src tw th s

/-- `RESIZE.BL` (R110): `m = 1`. -/
def execResizeBl (d src : Slot) (tw th : Nat) (s : State) : Result := resize .bilinear d src tw th s

end Sys2Proof.Machine
end

