-- ==== Sys2Proof/Machine/Demosaic.lean ====
section
/-! DEFINITION. The bayer_demosaic_engine: `DEMOSAIC.BC`, `DEMOSAIC.BL` (`43_demosaic.md`). -/

namespace Sys2Proof.Machine

/-- Pixel `(x, y)` lies in a complete 2 by 2 block: its block `(x/2, y/2)` is one of R120's. A
trailing odd column or row belongs to no block (R123). -/
abbrev inBlock (w h x y : Nat) : Prop := x / 2 < w / 2 ∧ y / 2 < h / 2

/-- `tl = (2j)*w + 2i`, the index of the top-left sensel of the block of pixel `(x, y)` (R121). -/
def blockTopLeft (w x y : Nat) : Nat := (2 * (y / 2)) * w + 2 * (x / 2)

/-- The red sensel of the block, for all four positions (R121, R122). -/
def redSensel (S : Plane) (w x y : Nat) : Sample := S.sample (blockTopLeft w x y)

/-- The blue sensel of the block, for all four positions (R121, R122). -/
def blueSensel (S : Plane) (w x y : Nat) : Sample := S.sample (blockTopLeft w x y + w + 1)

/-- The green value of a position: the top-row sensel `Gt` at the top-left and bottom-right, the
bottom-row sensel `Gb` at the top-right and bottom-left, "transcribed as written" (R122, U8). -/
def greenSensel (S : Plane) (w x y : Nat) : Sample :=
  if x % 2 = y % 2 then S.sample (blockTopLeft w x y + 1) else S.sample (blockTopLeft w x y + w)

/-- A plane of the intermediate: the block's value at every pixel of a block, and 0 at the pixels of
no block (R122, R123). -/
def blockyPlane (w h : Nat) (sensel : Nat → Nat → Sample) : Plane :=
  Plane.tabulate (w * h) fun p => if inBlock w h (p % w) (p / w) then sensel (p % w) (p / w) else 0

/-- `Blocky(B)`: the three-plane intermediate, with the source's size and `maxval` (R122, R123). It
is a local value: "no program and no host operation can observe it" (R22). -/
def blocky (B : PixelBuffer) : PixelBuffer :=
  let S := B.planes.plane 0
  { B with planes := .three (blockyPlane B.width B.height (redSensel S B.width))
                            (blockyPlane B.width B.height (greenSensel S B.width))
                            (blockyPlane B.width B.height (blueSensel S B.width)) }

/-- `Demosaic(B, m) = Resize(Blocky(B), B.width, B.height, m)` (R126). -/
def demosaicBuffer (pr : Config.Params) (B : PixelBuffer) (m : Filter) : PixelBuffer :=
  resizeBuffer pr (blocky B) B.width B.height m

/-- The shared checks of the two commands, in order, and their one write (R126, lines 1 to 4). -/
def demosaic (m : Filter) (d src : Slot) (s : State) : Result :=
  withDistinctSource s d src fun B =>
    if B.planes.count ≠ 1 then trap s .planeCountError 0
    else deliver s d (demosaicBuffer s.params B m)

/-- `DEMOSAIC.BC` (R124): `m = 0`. -/
def execDemosaicBc (d src : Slot) (s : State) : Result := demosaic .bicubic d src s

/-- `DEMOSAIC.BL` (R125): `m = 1`. -/
def execDemosaicBl (d src : Slot) (s : State) : Result := demosaic .bilinear d src s

end Sys2Proof.Machine
end

