-- ==== Sys2Proof/Machine/Raster.lean ====
section
/-! DEFINITION. The raster_bit_unpacker and the raster_bit_packer: `UNPACK1`, `UNPACK3`, `PACK`
(`41_raster_pack_unpack.md`). -/

namespace Sys2Proof.Machine

/-- The buffer `Unpack` builds: sample `i` of plane `k` is payload sample `i*c + k` (R70 lines 10 to
16). -/
def State.unpacked (s : State) (c : Format) (w h maxval addr : Nat) : PixelBuffer where
  width  := w
  height := h
  maxval := maxval
  planes := c.planes fun k =>
    Plane.tabulate (w * h) fun i => s.payloadSample addr maxval (i * c.channels + k)

/-- Some sample of the payload is greater than `maxval` (R70 line 14). -/
def State.payloadTooLarge (s : State) (c : Format) (w h maxval addr : Nat) : Bool :=
  (List.range (w * h * c.channels)).any fun j => decide (maxval < (s.payloadSample addr maxval j).toNat)

/-- `Unpack(d, c, w, h, maxval, addr, len)` (R70): the tests in the order of its lines, then the one
write of line 16. -/
def unpack (d : Slot) (c : Format) (w h maxval addr len : Nat) (s : State) : Result :=
  if w < 1 ∨ Config.dimMax < w then trap s .dimensionError 1
  else if h < 1 ∨ Config.dimMax < h then trap s .dimensionError 2
  else if maxval = 0 then trap s .formatError 1
  else if s.params.slotCap < w * h then trap s .allocationError 0
  else if len ≠ payloadLength w h c.channels maxval then trap s .formatError 2
  else if ¬ s.inMemory addr (payloadLength w h c.channels maxval) then trap s .ioError 0
  else if s.payloadTooLarge c w h maxval addr then trap s .formatError 3
  else deliver s d (s.unpacked c w h maxval addr)

/-- `UNPACK1` (R71): `Unpack` with `c = 1`. -/
def execUnpack1 (d : Slot) (w h maxval addr len : Nat) (s : State) : Result :=
  unpack d .single w h maxval addr len s

/-- `UNPACK3` (R72): `Unpack` with `c = 3`. -/
def execUnpack3 (d : Slot) (w h maxval addr len : Nat) (s : State) : Result :=
  unpack d .three w h maxval addr len s

/-- `PACK` (R73): `EmptySlot`, then `IOError`, then the `n` bytes of the payload from `addr`. -/
def execPack (src : Slot) (addr : Nat) (s : State) : Result :=
  withSource s src fun B =>
    if ¬ s.inMemory addr (payloadLength B.width B.height B.planes.count B.maxval) then
      trap s .ioError 0
    else complete (s.memWrite addr B.payload)

end Sys2Proof.Machine
end

