-- ==== Sys2Proof/Machine/Dispatch.lean ====
section
/-! DEFINITION. One arm per command: which meaning each constructor of `Instr` has. -/

namespace Sys2Proof.Machine

def exec (i : Instr) (s : State) : Host.Outcome State Fault Refusal :=
  match i with
  -- raster_bit_unpacker and raster_bit_packer
  | .unpack1 d w h maxval addr len => Sys2Proof.Machine.execUnpack1 d w h maxval addr len s
  | .unpack3 d w h maxval addr len => Sys2Proof.Machine.execUnpack3 d w h maxval addr len s
  | .pack src addr => Sys2Proof.Machine.execPack src addr s
  -- bicubic_resampler and bilinear_resampler
  | .resizeBc d src tw th => Sys2Proof.Machine.execResizeBc d src tw th s
  | .resizeBl d src tw th => Sys2Proof.Machine.execResizeBl d src tw th s
  -- bayer_demosaic_engine
  | .demosaicBc d src => Sys2Proof.Machine.execDemosaicBc d src s
  | .demosaicBl d src => Sys2Proof.Machine.execDemosaicBl d src s
  -- rgb_to_ycbcr_matrix and ycbcr_to_rgb_matrix
  | .rgb2ycc d src => Sys2Proof.Machine.execRgb2ycc d src s
  | .ycc2rgb d src => Sys2Proof.Machine.execYcc2rgb d src s
  -- sequencer
  | .free d => Sys2Proof.Machine.execFree d s
  | .halt => Sys2Proof.Machine.execHalt s

end Sys2Proof.Machine
end

