-- ==== Sys2Proof/Machine/Step.lean ====
section
/-! DEFINITION. One step of the engine (`45_control.md` R153), and how the host's check places one
command where the next step fetches it. -/

namespace Sys2Proof.Machine

/-- R153. The engine takes a step only in RUNNING (R18); "an engine that is not RUNNING simply takes
no step" (R181), which is written as the step that changes nothing (log entry 6). -/
def step (s : State) : Host.Outcome State Fault Refusal :=
  match s.status with
  | .running =>
    match s.fetch with
    | .error (f, info) => trap s f info
    | .ok i => exec i s
  | .idle => .next s
  | .halted => .next s
  | .faulted => .next s

/-- `s` with the command whose bits are `w` (numbered as the table numbers them) in the entry of the
command store that the next step fetches, and the engine RUNNING: what the host's writes of `cmd`
and of START do before a run (R192, log entry 7). A `pc` past the end of the store, where nothing
can be fetched, is set to 0, as START sets it. -/
def State.withFetchWord (s : State) (nbits w : Nat) : State :=
  let pc := if s.pc.toNat < s.params.ncmd then s.pc else 0
  { s.writeCommand pc.toNat (tableCommand nbits w) with pc := pc, status := .running }

end Sys2Proof.Machine
end

