-- ==== Sys2Proof/Machine/HostPort.lean ====
section
/-! DEFINITION. What the host can do to PRB (`70_reset_and_hazards.md` R194, `10_state.md` R19, R20):
its writes as moves of the state, its reads as functions of it. The host is outside PRB (R10); no
step of the engine makes one of these moves. -/

namespace Sys2Proof.Machine

/-! ## CTRL: START and RESET (R20, R190) -/

/-- The soft reset: as the power-on reset, but both memories keep their contents (R190). -/
def State.softReset (s : State) : State :=
  { State.powerOn s.params with mem := s.mem, cmd := s.cmd }

/-- START: in IDLE and HALTED, `pc <- 0` and `STATUS <- RUNNING`; in RUNNING and FAULTED the write is
ignored (R20). -/
def State.start (s : State) : State :=
  match s.status with
  | .idle => { s with pc := 0, status := .running }
  | .halted => { s with pc := 0, status := .running }
  | .running => s
  | .faulted => s

/-- `HostWriteCtrl(v)`, in the order of test of R20: RESET, else START, else nothing. -/
def State.writeCtrl (s : State) (v : Word) : State :=
  if v[1] then s.softReset else if v[0] then s.start else s

/-- A write of the register with number `n`: "a write of any number other than 0x00 is ignored"
(R19). -/
def State.writeRegister (s : State) (n : BitVec 8) (v : Word) : State :=
  if n = 0 then s.writeCtrl v else s

/-! ## The host's moves (R194) -/

/-- Everything the host can do that may change the state. -/
inductive HostMove where
  /-- `HostWriteCmd(i, W0, W1, W2, W3)`. -/
  | writeCmd (i : Nat) (W0 W1 W2 W3 : Word)
  /-- `HostWriteMem(a, b)`. -/
  | writeMem (a : Nat) (b : Byte)
  /-- A write of register `n`; of number 0x00 it is `HostWriteCtrl(v)`. -/
  | writeReg (n : BitVec 8) (v : Word)
  deriving DecidableEq, Repr

/-- One move of the host. `mem` and `cmd` only while the engine is not RUNNING (R40, U2), and only
inside their sizes (U3); a register at any time (R194). -/
def hostMove (m : HostMove) (s : State) : Result :=
  match m with
  | .writeCmd i W0 W1 W2 W3 =>
    if s.status = .running then .refused .hostAccessWhileRunning
    else if s.params.ncmd ≤ i then .refused .hostAccessOutside
    else .next (s.writeCommand i (commandOfWords W0 W1 W2 W3))
  | .writeMem a b =>
    if s.status = .running then .refused .hostAccessWhileRunning
    else if s.params.memBytes ≤ a then .refused .hostAccessOutside
    else .next (s.writeByte a b)
  | .writeReg n v => .next (s.writeRegister n v)

/-! ## The host's reads (R194). They change nothing. `HostReadReg(n)` is `State.register`. -/

/-- `HostReadMem(a)`: a byte of `mem`, not of `cmd`, for which see `State.hostReadCommand`. -/
def State.hostReadMem (s : State) (a : Nat) : Except Refusal Byte :=
  if s.status = .running then .error .hostAccessWhileRunning
  else if s.params.memBytes ≤ a then .error .hostAccessOutside
  else .ok (s.readByte a)

/-- The host's read of entry `i` of the command store. R161 says of a faulting command that the host "can
read the command there", and R181 that it "can inspect all state"; the tables of R194 and R40 list no
such read. That there is one, under the conditions of `HostReadMem`, is DESIGN CHOICE (log entry 17). -/
def State.hostReadCommand (s : State) (i : Nat) : Except Refusal Command :=
  if s.status = .running then .error .hostAccessWhileRunning
  else if s.params.ncmd ≤ i then .error .hostAccessOutside
  else .ok (s.readCommand i)

/-- `HostReadSample(k, c, i)`: "no value is returned for an empty slot or an index out of range". -/
def State.hostReadSample (s : State) (k : Slot) (c i : Nat) : Except Refusal (Option Sample) :=
  if s.status = .running then .error .hostAccessWhileRunning
  else match s.slot k with
    | .empty => .ok none
    | .full B =>
      if c < B.planes.count ∧ i < B.width * B.height then .ok (some ((B.planes.plane c).sample i))
      else .ok none

/-- Several moves of the host in order, stopping at the first that is turned away. -/
def hostMoves : List HostMove → State → Result
  | [], s => .next s
  | m :: ms, s =>
    match hostMove m s with
    | .next s' => hostMoves ms s'
    | .fault r => .fault r
    | .refused r => .refused r

/-! ## Launch (R192, R198) -/

/-- The premises of a launch: IDLE or HALTED, and no fault recorded (R198). -/
abbrev State.launchable (s : State) : Prop := (s.status = .idle ∨ s.status = .halted) ∧ s.err = 0

end Sys2Proof.Machine
end

