-- ==== Sys2Proof/Safety.lean ====
section
/-! DEFINITION. What counts as a good state and a good run of PRB, in the terms claims use:
the invariant of the state (R11, R15, R16, R17 to R20, R30, R38), and how a run ends (R154). -/

namespace Sys2Proof.Machine

/-! ## The invariant -/

/-- A slot that is `Empty`, or holds a buffer that meets R11, R15 and R16 (R12). -/
abbrev SlotValue.Legal (cap : Nat) : SlotValue → Prop
  | .empty => True
  | .full B => B.Legal cap

/-- Every slot is legal (R12, R15, R16), and there are no slots but `x[0]` to `x[NBUF-1]` (R12). -/
abbrev State.SlotsLegal (s : State) : Prop :=
  ∀ k : Slot, (s.slot k).Legal s.params.slotCap ∧ (s.params.nbuf ≤ k.val → s.slot k = .empty)

/-- Both stores are in their canonical form, and hold only addresses below `MEMBYTES` (R30) and
indices below `NCMD` (R38). -/
abbrev State.StoresLegal (s : State) : Prop :=
  Memory.wf s.mem ∧ Cells.wf s.cmd ∧
  (∀ p ∈ s.mem, p.1 < s.params.memBytes) ∧ (∀ p ∈ s.cmd, p.1 < s.params.ncmd)

/-- `pc` never runs past `NCMD` (R17, R168); `ERR` is non-zero exactly in FAULTED and is a code of
R160, and without a fault `ERRINFO` and `ERRPC` are 0 (R19, R20, R171). -/
abbrev State.SequencerLegal (s : State) : Prop :=
  s.pc.toNat ≤ s.params.ncmd ∧ (s.err ≠ 0 ↔ s.status = .faulted) ∧ s.err.toNat ≤ 9 ∧
  (s.err = 0 → s.errInfo = 0 ∧ s.errPc = 0)

/-- The invariant of the machine. -/
abbrev State.Inv (s : State) : Prop := s.SlotsLegal ∧ s.StoresLegal ∧ s.SequencerLegal

/-! ## Runs (R154) -/

/-- The run is over: `STATUS` is HALTED or FAULTED. -/
abbrev State.runEnded (s : State) : Prop := s.status = .halted ∨ s.status = .faulted

/-- "A run has ended *well* exactly when `STATUS = HALTED` and `ERR = 0`" (R154). -/
abbrev State.endedWell (s : State) : Prop := s.status = .halted ∧ s.err = 0

/-- `k` steps of the machine. -/
def runSteps (k : Nat) (s : State) : Result := Sys2Proof.core.run k s

end Sys2Proof.Machine

namespace Sys2Proof

/-! ## The vocabulary of claims: commands and fields -/

/-- The slot a command writes, by the table under R12; none for `PACK` and `HALT`. -/
def Instr.slotWritten : Instr → Option Slot
  | .unpack1 d .. | .unpack3 d .. | .resizeBc d .. | .resizeBl d .. | .demosaicBc d _
  | .demosaicBl d _ | .rgb2ycc d _ | .ycc2rgb d _ | .free d => some d
  | .pack .. | .halt => none

/-- The destination and the source of a command that has both (R167). -/
def Instr.slotPair : Instr → Option (Slot × Slot)
  | .resizeBc d src .. | .resizeBl d src .. | .demosaicBc d src | .demosaicBl d src
  | .rgb2ycc d src | .ycc2rgb d src => some (d, src)
  | .unpack1 .. | .unpack3 .. | .pack .. | .free _ | .halt => none

/-- The causes a command can raise, by number, as the table of R175 lists them. -/
def Instr.causes : Instr → List (BitVec 4)
  | .unpack1 .. | .unpack3 .. => [2, 1, 3, 4]
  | .pack .. => [6, 4]
  | .resizeBc .. | .resizeBl .. => [8, 6, 2, 3]
  | .demosaicBc .. | .demosaicBl .. | .rgb2ycc .. | .ycc2rgb .. => [8, 6, 7]
  | .free _ | .halt => []

/-- The must-be-zero fields of R54, by opcode: those R53 shows as a dash, and bits `[15:1]` of `imm16`
in `RESIZE.*` and `DEMOSAIC.*`. -/
def Fields.reservedZero (f : Fields) : Bool :=
  match f.op with
  | 0x02 => f.d == 0 && f.imm16 == 0 && f.hi16 == 0 && f.lo16 == 0 && f.len == 0
  | 0x03 => f.imm16 / 2 == 0 && f.addr == 0 && f.len == 0
  | 0x04 => f.imm16 / 2 == 0 && f.hi16 == 0 && f.lo16 == 0 && f.addr == 0 && f.len == 0
  | 0x05 => f.imm16 == 0 && f.hi16 == 0 && f.lo16 == 0 && f.addr == 0 && f.len == 0
  | 0x06 => f.imm16 == 0 && f.hi16 == 0 && f.lo16 == 0 && f.addr == 0 && f.len == 0
  | 0x07 => f.s == 0 && f.imm16 == 0 && f.hi16 == 0 && f.lo16 == 0 && f.addr == 0 && f.len == 0
  | 0x08 =>
    f.d == 0 && f.s == 0 && f.imm16 == 0 && f.hi16 == 0 && f.lo16 == 0 && f.addr == 0 && f.len == 0
  | _ => true

/-- A slot field the command uses is at or above `NBUF` (R55, test 2). -/
abbrev Fields.slotTooLarge (nbuf : Nat) (f : Fields) : Prop :=
  (f.op ≠ 0x02 ∧ f.op ≠ 0x08 ∧ nbuf ≤ f.d) ∨ (2 ≤ f.op ∧ f.op ≤ 6 ∧ nbuf ≤ f.s)

end Sys2Proof

namespace Sys2Proof.Machine

/-! ## The vocabulary of claims: states -/

/-- The command raises the fault with this code and sub-code: the next state is `s` with exactly the
four writes of R170. -/
abbrev Raises (i : Instr) (s : State) (code : BitVec 4) (info : BitVec 8) : Prop :=
  exec i s = .next { s with err := code, errInfo := info, errPc := s.pc, status := .faulted }

/-- `t` is `s` but for slot `d` and `pc`, which is one more: the frame of a completed command whose
one destination is slot `d`. -/
abbrev State.OnlySlotWritten (s t : State) (d : Slot) : Prop :=
  (∀ k, k ≠ d → t.slot k = s.slot k) ∧ t.pc = s.pc + 1 ∧
  t.mem = s.mem ∧ (∀ a, t.readByte a = s.readByte a) ∧ t.cmd = s.cmd ∧ t.params = s.params ∧
  t.status = s.status ∧ t.err = s.err ∧ t.errInfo = s.errInfo ∧ t.errPc = s.errPc

/-- Sample number `j` of a payload of the given `maxval` at `addr`, as a number: one byte, or the more
significant byte first (R31, R32, R35). -/
def State.sampleNumber (s : State) (addr maxval j : Nat) : Nat :=
  if maxval ≤ 255 then (s.readByte (addr + j)).toNat
  else (s.readByte (addr + 2 * j)).toNat * 256 + (s.readByte (addr + 2 * j + 1)).toNat

/-- The length of a buffer's payload, `width*height*planes*sb(maxval)` (R73 line 4). -/
def PixelBuffer.payloadBytes (B : PixelBuffer) : Nat :=
  B.width * B.height * B.planes.count * (if B.maxval ≤ 255 then 1 else 2)

/-- The `UNPACK` that reads a buffer of this shape back (R77). -/
def PixelBuffer.unpackCommand (B : PixelBuffer) (d : Slot) (addr len : Nat) : Instr :=
  match B.planes with
  | .one _ => .unpack1 d B.width B.height B.maxval addr len
  | .three _ _ _ => .unpack3 d B.width B.height B.maxval addr len

/-- Every one-plane buffer in a slot keeps "every sample lies in `[0, maxSampleValue]`" (R15, R127). -/
abbrev State.OnePlaneInRange (s : State) : Prop :=
  ∀ k B, s.slot k = .full B → B.planes.count = 1 → B.InRange

end Sys2Proof.Machine
end

