-- ==== Sys2Proof/Certificates/Slice0/Obligations.lean ====
section
/-! DEFINITION. The statements for the provers, each from the spec's numbered rules. OBLIGATIONS.json
lists them with their tiers, rules and quotations. -/

open Sys2Proof Sys2Proof.Machine

/-! ## Encoding (`30_encoding.md`) -/

/-- Words written out in `30_encoding.md` section 6 decode to the commands written beside them there:
one of every family. -/
def Obligations.SpecWordsDecode : Prop :=
  decode 4 (commandOfWords 0x010300FF 0x00040004 0x00000100 0x00000030)
    = .ok (.unpack3 0 4 4 255 0x100 48) ∧
  decode 4 (commandOfWords 0x0121FFFF 0x00017FFF 0x00010000 0x0000FFFE)
    = .ok (.unpack1 2 32767 1 65535 0x10000 65534) ∧
  decode 4 (commandOfWords 0x02020000 0x00000000 0x00000200 0x00000000) = .ok (.pack 2 0x200) ∧
  decode 4 (commandOfWords 0x03210001 0x01E00280 0x00000000 0x00000000)
    = .ok (.resizeBl 2 1 640 480) ∧
  decode 4 (commandOfWords 0x04300001 0x00000000 0x00000000 0x00000000) = .ok (.demosaicBl 3 0) ∧
  decode 4 (commandOfWords 0x06210000 0x00000000 0x00000000 0x00000000) = .ok (.ycc2rgb 2 1) ∧
  decode 4 (commandOfWords 0x07300000 0x00000000 0x00000000 0x00000000) = .ok (.free 3) ∧
  decode 4 (commandOfWords 0x08000000 0x00000000 0x00000000 0x00000000) = .ok .halt

/-- R51, R53, R56, R57: the word of every well-formed command decodes to that command, with every
operand at every value its field admits and every slot the machine has, whatever `NBUF`. -/
def Obligations.DecodeOfEncodeIsIdentity : Prop :=
  ∀ (nbuf : Nat) (i : Instr), i.WellFormed nbuf → decode nbuf (encode i) = .ok i

/-- R51, R53, R54, R57: a word that decodes is the word of the command it decodes to, and that command
is well formed: each command has one word, and decoding drops no bit. -/
def Obligations.EncodeOfDecodeIsIdentity : Prop :=
  ∀ (nbuf : Nat) (C : Command) (i : Instr), decode nbuf C = .ok i → i.WellFormed nbuf ∧ encode i = C

/-- R53, R55: for `NBUF = 4`, a command that decodes matches exactly one row of the opcode table by the
masks the table prints, and one that matches a row decodes to a command of that row's mnemonic. For any
`NBUF`, the bits of the masks outside the slot fields select exactly one row. -/
def Obligations.LegalCommandMatchesOneRow : Prop :=
  ∀ C : Command,
    (∀ i, decode 4 C = .ok i → ∃ r : Row, r.matches C ∧ ∀ r' : Row, r'.matches C → r' = r) ∧
    (∀ r : Row, r.matches C → decode 4 C = .ok (r.instr (fieldsOf C))) ∧
    (∀ nbuf i, decode nbuf C = .ok i →
      ∃ r : Row, r.matchesRest C ∧ ∀ r' : Row, r'.matchesRest C → r' = r)

/-- R55, R54: the command fetched by a step is tested in the order of R55's table, the first test that
fails is the sub-code of the `IllegalCommand` the step raises, the step has no other effect, and a
command that passes all four tests is executed. -/
def Obligations.IllegalCommandSubcodes : Prop :=
  ∀ s : State, s.status = .running → s.pc.toNat < s.params.ncmd →
    let f := fieldsOf (s.readCommand s.pc.toNat)
    let illegal (n : BitVec 8) :=
      step s = .next { s with err := 5, errInfo := n, errPc := s.pc, status := .faulted }
    if f.op = 0 ∨ 8 < f.op then illegal 1
    else if f.slotTooLarge s.params.nbuf then illegal 2
    else if f.op = 1 ∧ f.s ≠ 1 ∧ f.s ≠ 3 then illegal 3
    else if ¬ f.reservedZero then illegal 4
    else ∃ i, decode s.params.nbuf (s.readCommand s.pc.toNat) = .ok i ∧ step s = exec i s

/-! ## The step and the run (`45_control.md`) -/

/-- R153: while RUNNING and inside the command store, when the entry at `pc` decodes, a step is that
command's own meaning, with nothing added before or after it. -/
def Obligations.StepRunsDecodedCommand : Prop :=
  ∀ (s : State) (i : Instr), s.status = .running → s.pc.toNat < s.params.ncmd →
    decode s.params.nbuf (s.readCommand s.pc.toNat) = .ok i → step s = exec i s

/-- R168: a step that finds `pc >= NCMD` raises `FetchError`; `ERRPC` is then the `pc` it found, which
is `NCMD` for a run that reaches the end of the store. -/
def Obligations.FetchPastStoreFaults : Prop :=
  ∀ s : State, s.status = .running → s.params.ncmd ≤ s.pc.toNat →
    step s = .next { s with err := 9, errInfo := 0, errPc := s.pc, status := .faulted } ∧
    (s.pc.toNat = s.params.ncmd → ∀ t, step s = .next t → t.errPc.toNat = s.params.ncmd)

/-- R18, R181: an engine that is not RUNNING takes no step. That this is the step that changes nothing
is the model's choice (log entry 6). -/
def Obligations.EngineStepsOnlyWhenRunning : Prop :=
  ∀ s : State, s.status ≠ .running → step s = .next s

/-- R153, R17: a step of a running engine always answers a next state; the state is one in which the
run has ended with `pc` where it was, or the engine still runs and `pc` is one more. -/
def Obligations.StepEndsRunOrAdvancesPc : Prop :=
  ∀ s : State, s.status = .running →
    ∃ t, step s = .next t ∧
      ((t.runEnded ∧ t.pc = s.pc) ∨
       (t.status = .running ∧ t.pc.toNat = s.pc.toNat + 1 ∧ s.pc.toNat < s.params.ncmd))

/-- R154: every run ends: from any RUNNING state, `NCMD + 1` steps reach HALTED or FAULTED, no step on
the way being refused. (That the steps left over after the end change nothing is the model's choice,
log entry 6.) -/
def Obligations.RunEndsWithinStoreLength : Prop :=
  ∀ s : State, s.status = .running → ∃ t, runSteps (s.params.ncmd + 1) s = .next t ∧ t.runEnded

/-- R152, R153: the only successor of a command at index `i` is index `i + 1`: between two states of a
run, `k` steps apart, the second still RUNNING, `pc` has grown by exactly `k`. -/
def Obligations.RunIsStraightLine : Prop :=
  ∀ (k : Nat) (s t : State), runSteps k s = .next t → s.status = .running → t.status = .running →
    t.pc.toNat = s.pc.toNat + k

/-! ## Invariants (`10_state.md` R11, R15, R16) -/

/-- R11, R15, R16, R17, R19, R20, R30, R38: every step keeps the invariant of the state: legal buffers
in every slot and no slot past `NBUF`, both stores canonical and inside their sizes, `pc` at most
`NCMD`, and `ERR` non-zero exactly in FAULTED. (`ARITH` and `ROUND` are as R3 decides: R16 rests on a
blend that stays between its corners, R100.) -/
def Obligations.StepKeepsInvariant : Prop :=
  ∀ s t : State, s.params.DecidedReals → s.Inv → step s = .next t → t.Inv

/-- The invariant holds after a power-on reset, whatever the parameters are. -/
def Obligations.ResetMeetsInvariant : Prop :=
  (∀ p : Config.Params, (State.powerOn p).Inv ∧ (State.powerOn p).OnePlaneInRange) ∧
  State.reset.Inv

/-- Every move of the host keeps the invariant too. -/
def Obligations.HostMovesKeepInvariant : Prop :=
  ∀ (m : HostMove) (s t : State), s.Inv → hostMove m s = .next t → t.Inv

/-- R127, R15: every step keeps the samples of every one-plane buffer within its `maxval`: only the
colour commands can leave a sample above `maxval`, and they write three planes. (`ARITH` and `ROUND` are
as R3 decides.) -/
def Obligations.OnePlaneBuffersStayInRange : Prop :=
  ∀ s t : State, s.params.DecidedReals → s.OnePlaneInRange → step s = .next t → t.OnePlaneInRange

/-- R15: a buffer written by `UNPACK1`, `UNPACK3`, `RESIZE.BC` or `DEMOSAIC.BC` has every sample within
`maxval`, whatever its source had (R94); one written by `RESIZE.BL` or `DEMOSAIC.BL` if its source had,
`ARITH` and `ROUND` being as R3 decides (R100); one written by a colour command has samples of 0 to 255
(R137). -/
def Obligations.CommandsKeepSamplesInRange : Prop :=
  ∀ (i : Instr) (s t : State) (d : Slot) (B' : PixelBuffer), i.WellFormed s.params.nbuf → s.Inv →
    s.status ≠ .faulted → exec i s = .next t → t.status ≠ .faulted →
    i.slotWritten = some d → t.slot d = .full B' →
    match i with
    | .unpack1 .. | .unpack3 .. | .resizeBc .. | .demosaicBc .. => B'.InRange
    | .resizeBl _ src .. | .demosaicBl _ src =>
      s.params.DecidedReals → (∀ B, s.slot src = .full B → B.InRange) → B'.InRange
    | .rgb2ycc .. | .ycc2rgb .. => B'.samplesAtMost 255
    | .pack .. | .free _ | .halt => False

/-! ## Faults (`60_exceptions.md`) -/

/-- R170, R160: `raise <Fault>(info)` writes the code of the fault to `ERR`, `info` to `ERRINFO`, `pc` to
`ERRPC` and FAULTED to `STATUS`; and a command or a step that faults does exactly that and nothing
else: no slot, no byte and no command changes, and `pc` stays. -/
def Obligations.FaultsArePrecise : Prop :=
  (∀ (s : State) (f : Cause) (info : BitVec 8), trap s f info.toNat =
    .next { s with err := f.code, errInfo := info, errPc := s.pc, status := .faulted }) ∧
  (∀ (i : Instr) (s t : State), exec i s = .next t → s.status ≠ .faulted → t.status = .faulted →
    ∃ code : BitVec 4, ∃ info : BitVec 8, (1 ≤ code.toNat ∧ code.toNat ≤ 9) ∧
      t = { s with err := code, errInfo := info, errPc := s.pc, status := .faulted }) ∧
  (∀ s t : State, step s = .next t → s.status ≠ .faulted → t.status = .faulted →
    ∃ code : BitVec 4, ∃ info : BitVec 8, (1 ≤ code.toNat ∧ code.toNat ≤ 9) ∧
      t = { s with err := code, errInfo := info, errPc := s.pc, status := .faulted })

/-- R19, R170: a command that does not fault leaves `ERR`, `ERRINFO` and `ERRPC` as they were, and so
does a step: they are written only by a fault entry. -/
def Obligations.ErrorRegistersWrittenOnlyByFault : Prop :=
  (∀ (i : Instr) (s t : State), exec i s = .next t → t.status ≠ .faulted →
    t.err = s.err ∧ t.errInfo = s.errInfo ∧ t.errPc = s.errPc) ∧
  (∀ s t : State, step s = .next t → t.status ≠ .faulted →
    t.err = s.err ∧ t.errInfo = s.errInfo ∧ t.errPc = s.errPc)

/-- R175: a command raises only the causes the table lists for it; `FREE` and `HALT` raise none. -/
def Obligations.CommandsRaiseOnlyTheirCauses : Prop :=
  ∀ (i : Instr) (s t : State), exec i s = .next t → s.status ≠ .faulted → t.status = .faulted →
    t.err ∈ i.causes

/-- R167: every command that has both a `d` and an `s` slot raises `SlotConflict` when they are the
same slot, whatever the slot holds and whatever the other operands are. -/
def Obligations.SlotConflictIsTestedFirst : Prop :=
  ∀ (i : Instr) (d : Slot) (s : State), i.slotPair = some (d, d) → Raises i s 8 0

/-- R13: a command that reads slot `src` while it is `Empty` raises `EmptySlot` and does nothing
else. (A command whose destination is the same slot raises `SlotConflict` before, R167.) -/
def Obligations.EmptySourceRaisesEmptySlot : Prop :=
  ∀ (src : Slot) (s : State), s.slot src = .empty →
    (∀ addr, Raises (.pack src addr) s 6 0) ∧
    (∀ (i : Instr) (d : Slot), i.slotPair = some (d, src) → d ≠ src → Raises i s 6 0)

/-- R166: the wrong number of planes raises `PlaneCountError`: three for `DEMOSAIC.*`, one for the
colour commands; `RESIZE.*` and `PACK` accept either number and never raise it. -/
def Obligations.WrongPlaneCountRaisesPlaneCountError : Prop :=
  (∀ (d src : Slot) (s : State) (B : PixelBuffer), d ≠ src → s.slot src = .full B →
    (B.planes.count = 3 → Raises (.demosaicBc d src) s 7 0 ∧ Raises (.demosaicBl d src) s 7 0) ∧
    (B.planes.count = 1 → Raises (.rgb2ycc d src) s 7 0 ∧ Raises (.ycc2rgb d src) s 7 0)) ∧
  (∀ (i : Instr) (s t : State),
    (match i with | .pack .. | .resizeBc .. | .resizeBl .. => True | _ => False) →
    exec i s = .next t → s.err ≠ 7 → t.err ≠ 7)

/-- R171, R173: in FAULTED no step changes anything, and no move of the host but a RESET leaves the
state or changes `ERR`, `ERRINFO` or `ERRPC`; START is ignored. (That a step of a stopped engine
changes nothing is the model's choice, log entry 6.) -/
def Obligations.FaultIsSticky : Prop :=
  ∀ s : State, s.status = .faulted →
    step s = .next s ∧
    ∀ (m : HostMove) (t : State), hostMove m s = .next t →
      (t.status = .faulted ∧ t.err = s.err ∧ t.errInfo = s.errInfo ∧ t.errPc = s.errPc ∧
        t.pc = s.pc ∧ t.slots = s.slots) ∨
      (∃ v : Word, m = .writeReg 0 v ∧ v[1] = true ∧ t = s.softReset)

/-! ## Frames (`10_state.md` R12, `20_memory.md` R30, R42) -/

/-- The table under R12: a command changes no slot but the one it writes; `PACK` and `HALT` change
none. No command changes a parameter (R24; that they stand in the state is log entry 1). -/
def Obligations.OnlyDestinationSlotChanges : Prop :=
  ∀ (i : Instr) (s t : State), exec i s = .next t →
    (∀ k : Slot, i.slotWritten ≠ some k → t.slot k = s.slot k) ∧ t.params = s.params

/-- R30, R73: no command but `PACK` changes a byte of the byte memory, and `PACK` changes no byte
outside the `n` bytes from `addr`, `n` the payload length of the buffer it packs; where `PACK` faults
it changes none at all. -/
def Obligations.OnlyPackWritesMemory : Prop :=
  (∀ (i : Instr) (s t : State), (∀ src addr, i ≠ .pack src addr) → exec i s = .next t →
    t.mem = s.mem ∧ ∀ a, t.readByte a = s.readByte a) ∧
  (∀ (src : Slot) (addr : Nat) (s t : State), exec (.pack src addr) s = .next t →
    (∀ a, (∀ B, s.slot src = .full B → a < addr ∨ addr + B.payloadBytes ≤ a) →
      t.readByte a = s.readByte a) ∧
    (s.status ≠ .faulted → t.status = .faulted →
      t.mem = s.mem ∧ ∀ a, t.readByte a = s.readByte a))

/-- R42: no command and no step writes the command store, so a fetch reads what was last written there;
`PACK`, where it does not fault, writes `mem` only (and `pc`). -/
def Obligations.NoCommandWritesCommandStore : Prop :=
  (∀ (i : Instr) (s t : State), exec i s = .next t →
    t.cmd = s.cmd ∧ ∀ j, t.readCommand j = s.readCommand j) ∧
  (∀ s t : State, step s = .next t → t.cmd = s.cmd ∧ ∀ j, t.readCommand j = s.readCommand j) ∧
  (∀ (src : Slot) (addr : Nat) (s t : State), exec (.pack src addr) s = .next t →
    s.status ≠ .faulted → t.status ≠ .faulted → t = { s with mem := t.mem, pc := s.pc + 1 })

/-- R74, R75: `UNPACK` reads no byte outside its payload: two states that differ only in bytes outside
`mem[addr .. addr+len-1]` fault alike and deliver the same buffer. -/
def Obligations.UnpackReadsOnlyItsPayload : Prop :=
  ∀ (d : Slot) (w h maxval addr len : Nat) (s : State) (m : Memory),
    (∀ a, addr ≤ a → a < addr + len → ({ s with mem := m } : State).readByte a = s.readByte a) →
    (∀ t, exec (.unpack1 d w h maxval addr len) s = .next t →
      exec (.unpack1 d w h maxval addr len) { s with mem := m } = .next { t with mem := m }) ∧
    (∀ t, exec (.unpack3 d w h maxval addr len) s = .next t →
      exec (.unpack3 d w h maxval addr len) { s with mem := m } = .next { t with mem := m })

/-- R75, R30: no other command but `PACK` touches the byte memory: what it does is the same whatever
the byte memory holds. -/
def Obligations.OtherCommandsIgnoreMemory : Prop :=
  ∀ (i : Instr) (s t : State) (m : Memory),
    (match i with | .unpack1 .. | .unpack3 .. | .pack .. => False | _ => True) →
    exec i s = .next t → exec i { s with mem := m } = .next { t with mem := m }

/-! ## UNPACK and PACK (`41_raster_pack_unpack.md`) -/

/-- R71, R70: `UNPACK1`, its tests passed, completes with a one-plane buffer in slot `d` whose sample
`i` is payload sample `i`, and changes nothing else but `pc`. -/
def Obligations.Unpack1DeliversBuffer : Prop :=
  ∀ (d : Slot) (w h maxval addr len : Nat) (s : State),
    (1 ≤ w ∧ w ≤ 32767) → (1 ≤ h ∧ h ≤ 32767) → 1 ≤ maxval → w * h ≤ s.params.slotCap →
    len = w * h * 1 * (if maxval ≤ 255 then 1 else 2) → addr + len ≤ s.params.memBytes →
    (∀ j < w * h, s.sampleNumber addr maxval j ≤ maxval) →
    ∃ t p, exec (.unpack1 d w h maxval addr len) s = .next t ∧ s.OnlySlotWritten t d ∧
      t.slot d = .full { width := w, height := h, maxval := maxval, planes := .one p } ∧
      p.length = w * h ∧ ∀ i < w * h, (p.sample i).toNat = s.sampleNumber addr maxval i

/-- R72, R70: `UNPACK3` completes with a three-plane buffer: sample `i` of plane `k` is payload sample
`3*i + k`. -/
def Obligations.Unpack3DeliversBuffer : Prop :=
  ∀ (d : Slot) (w h maxval addr len : Nat) (s : State),
    (1 ≤ w ∧ w ≤ 32767) → (1 ≤ h ∧ h ≤ 32767) → 1 ≤ maxval → w * h ≤ s.params.slotCap →
    len = w * h * 3 * (if maxval ≤ 255 then 1 else 2) → addr + len ≤ s.params.memBytes →
    (∀ j < w * h * 3, s.sampleNumber addr maxval j ≤ maxval) →
    ∃ t p0 p1 p2, exec (.unpack3 d w h maxval addr len) s = .next t ∧ s.OnlySlotWritten t d ∧
      t.slot d = .full { width := w, height := h, maxval := maxval, planes := .three p0 p1 p2 } ∧
      p0.length = w * h ∧ p1.length = w * h ∧ p2.length = w * h ∧
      ∀ i < w * h, (p0.sample i).toNat = s.sampleNumber addr maxval (3 * i) ∧
        (p1.sample i).toNat = s.sampleNumber addr maxval (3 * i + 1) ∧
        (p2.sample i).toNat = s.sampleNumber addr maxval (3 * i + 2)

/-- R70, R175: the faults of `UNPACK1` (`c = 1`) and `UNPACK3` (`c = 3`), in their order: width,
height, `maxval`, allocation, length, range, samples. -/
def Obligations.UnpackFaultOrder : Prop :=
  ∀ (d : Slot) (w h maxval addr len c : Nat) (i : Instr) (s : State),
    (c = 1 ∧ i = .unpack1 d w h maxval addr len) ∨ (c = 3 ∧ i = .unpack3 d w h maxval addr len) →
    let n := w * h * c * (if maxval ≤ 255 then 1 else 2)
    if w = 0 ∨ 32767 < w then Raises i s 2 1
    else if h = 0 ∨ 32767 < h then Raises i s 2 2
    else if maxval = 0 then Raises i s 1 1
    else if s.params.slotCap < w * h then Raises i s 3 0
    else if len ≠ n then Raises i s 1 2
    else if s.params.memBytes < addr + n then Raises i s 4 0
    else (∃ j < w * h * c, maxval < s.sampleNumber addr maxval j) → Raises i s 1 3

/-- R73: `PACK` of a full slot whose payload fits the byte memory completes: sample `i` of plane `k`
goes to payload position `i*c + k`, one byte, or two with the more significant first; no slot, no
byte outside the `n` bytes from `addr` and nothing else but `pc` changes. -/
def Obligations.PackWritesPayload : Prop :=
  ∀ (src : Slot) (addr : Nat) (s : State) (B : PixelBuffer), s.slot src = .full B →
    addr + B.payloadBytes ≤ s.params.memBytes →
    ∃ t, exec (.pack src addr) s = .next t ∧
      (∀ i < B.width * B.height, ∀ k < B.planes.count,
        let v := ((B.planes.plane k).sample i).toNat
        let j := i * B.planes.count + k
        if B.maxval ≤ 255 then (t.readByte (addr + j)).toNat = v % 256
        else (t.readByte (addr + 2 * j)).toNat = v / 256 ∧
          (t.readByte (addr + 2 * j + 1)).toNat = v % 256) ∧
      (∀ a, a < addr ∨ addr + B.payloadBytes ≤ a → t.readByte a = s.readByte a) ∧
      t.slots = s.slots ∧ t.pc = s.pc + 1 ∧ t.cmd = s.cmd ∧ t.params = s.params ∧
      t.status = s.status ∧ t.err = s.err ∧ t.errInfo = s.errInfo ∧ t.errPc = s.errPc

/-- R73, R175: the faults of `PACK`, in their order: `EmptySlot`, then `IOError`. -/
def Obligations.PackFaultOrder : Prop :=
  ∀ (src : Slot) (addr : Nat) (s : State),
    (s.slot src = .empty → Raises (.pack src addr) s 6 0) ∧
    (∀ B, s.slot src = .full B → s.params.memBytes < addr + B.payloadBytes →
      Raises (.pack src addr) s 4 0)

/-- R77: packing a legal buffer whose samples are within `maxval`, then unpacking those bytes into any
other slot, raises no fault and gives the buffer back in every field and every sample. -/
def Obligations.PackThenUnpackRoundTrip : Prop :=
  ∀ (s : State) (src d : Slot) (B : PixelBuffer) (addr : Nat),
    s.slot src = .full B → B.Legal s.params.slotCap → B.InRange → d ≠ src →
    addr + B.payloadBytes ≤ s.params.memBytes →
    ∃ t u, exec (.pack src addr) s = .next t ∧
      exec (B.unpackCommand d addr B.payloadBytes) t = .next u ∧
      u.slot d = .full B ∧ u.slot src = .full B ∧ u.status = s.status ∧ u.pc = s.pc + 2

/-- R77, the converse: an `UNPACK` that completes, then `PACK` of the same slot to another address,
reproduces the payload bytes there. -/
def Obligations.UnpackThenPackReproducesPayload : Prop :=
  ∀ (d : Slot) (w h maxval addr len addr' : Nat) (i : Instr) (s t : State),
    i = .unpack1 d w h maxval addr len ∨ i = .unpack3 d w h maxval addr len →
    s.status ≠ .faulted → exec i s = .next t → t.status ≠ .faulted →
    addr' + len ≤ s.params.memBytes →
    ∃ u, exec (.pack d addr') t = .next u ∧ u.status = s.status ∧
      ∀ q < len, u.readByte (addr' + q) = s.readByte (addr + q)

/-! ## RESIZE (`42_resampler.md`) -/

/-- R107, R106, R105: `RESIZE.BC`, its tests passed, completes with a buffer of the target size in slot
`d`: each sample is `SampleBicubic` of its own source plane at the coordinates of R105, for every value
of the parameters; nothing else but `pc` changes. (`BicubicSampleValue` and
`SourceCoordinateIntegerForm` say what those are.) -/
def Obligations.ResizeBcDeliversBuffer : Prop :=
  ∀ (d src : Slot) (tw th : Nat) (s : State) (B : PixelBuffer), d ≠ src → s.slot src = .full B →
    B.maxval ≤ 65535 → (1 ≤ tw ∧ tw ≤ 32767) → (1 ≤ th ∧ th ≤ 32767) → tw * th ≤ s.params.slotCap →
    ∃ t B', exec (.resizeBc d src tw th) s = .next t ∧ s.OnlySlotWritten t d ∧
      t.slot d = .full B' ∧ B'.width = tw ∧ B'.height = th ∧ B'.maxval = B.maxval ∧
      B'.planes.count = B.planes.count ∧
      ∀ c < B.planes.count, (B'.planes.plane c).length = tw * th ∧
        ∀ x < tw, ∀ y < th,
          sampleInt ((B'.planes.plane c).sample (y * tw + x)) =
            sampleBicubic s.params (B.planes.plane c) (sourceCoord s.params.arith x B.width tw)
              (sourceCoord s.params.arith y B.height th) B.width B.height B.maxval

/-- R110, R106, R105: `RESIZE.BL`, likewise, with `BilinearAt`, whose value is stored as it is where
`ARITH` and `ROUND` are as R3 decides (for other values, log entry 11). -/
def Obligations.ResizeBlDeliversBuffer : Prop :=
  ∀ (d src : Slot) (tw th : Nat) (s : State) (B : PixelBuffer), d ≠ src → s.slot src = .full B →
    (1 ≤ tw ∧ tw ≤ 32767) → (1 ≤ th ∧ th ≤ 32767) → tw * th ≤ s.params.slotCap →
    ∃ t B', exec (.resizeBl d src tw th) s = .next t ∧ s.OnlySlotWritten t d ∧
      t.slot d = .full B' ∧ B'.width = tw ∧ B'.height = th ∧ B'.maxval = B.maxval ∧
      B'.planes.count = B.planes.count ∧
      ∀ c < B.planes.count, (B'.planes.plane c).length = tw * th ∧
        ∀ x < tw, ∀ y < th,
          let v := bilinearAt s.params (B.planes.plane c) (sourceCoord s.params.arith x B.width tw)
            (sourceCoord s.params.arith y B.height th) B.width B.height
          (B'.planes.plane c).sample (y * tw + x) = sampleOfInt v ∧
          (s.params.DecidedReals → sampleInt ((B'.planes.plane c).sample (y * tw + x)) = v)

/-- R106, R175: the faults of the two `RESIZE` commands on distinct slots and a full source, in their
order: width, height, allocation. -/
def Obligations.ResizeFaultOrder : Prop :=
  ∀ (d src : Slot) (tw th : Nat) (s : State) (B : PixelBuffer) (i : Instr),
    i = .resizeBc d src tw th ∨ i = .resizeBl d src tw th → d ≠ src → s.slot src = .full B →
    (tw = 0 ∨ 32767 < tw → Raises i s 2 1) ∧
    ((1 ≤ tw ∧ tw ≤ 32767) → (th = 0 ∨ 32767 < th) → Raises i s 2 2) ∧
    ((1 ≤ tw ∧ tw ≤ 32767) → (1 ≤ th ∧ th ≤ 32767) → s.params.slotCap < tw * th → Raises i s 3 0)

/-- R111: a resize to the source's own size gives the source back at every pixel, border included:
exactly by `RESIZE.BL`, each sample clamped to `maxval` by `RESIZE.BC`. ("Under exact arithmetic":
`ARITH` and `ROUND` are as R3 decides.) -/
def Obligations.SameSizeResizeIsIdentity : Prop :=
  ∀ (d src : Slot) (s : State) (B : PixelBuffer), d ≠ src → s.slot src = .full B →
    s.params.DecidedReals → B.Legal s.params.slotCap →
    (∃ t, exec (.resizeBl d src B.width B.height) s = .next t ∧ t.slot d = .full B) ∧
    (∃ t B', exec (.resizeBc d src B.width B.height) s = .next t ∧ t.slot d = .full B' ∧
      B'.width = B.width ∧ B'.height = B.height ∧ B'.maxval = B.maxval ∧
      B'.planes.count = B.planes.count ∧
      (∀ c < B.planes.count, (B'.planes.plane c).length = B.width * B.height ∧
        ∀ i < B.width * B.height,
          sampleInt ((B'.planes.plane c).sample i) =
            min (sampleInt ((B.planes.plane c).sample i)) B.maxval) ∧
      (B.InRange → B' = B))

/-- R91: the kernel runs from tap `B` to tap `C`; it is the weighted sum of the taps with the weights
of (c), which add up to 1; the two outer weights are negative or zero on `0 <= t < 1`. -/
def Obligations.CubicKernelWeights : Prop :=
  ∀ A B C D t : ℚ,
    cubic .exact A B C D 0 = B ∧ cubic .exact A B C D 1 = C ∧
    (let wA := (-t ^ 3 + 2 * t ^ 2 - t) / 2
     let wB := (3 * t ^ 3 - 5 * t ^ 2 + 2) / 2
     let wC := (-3 * t ^ 3 + 4 * t ^ 2 + t) / 2
     let wD := (t ^ 3 - t ^ 2) / 2
     cubic .exact A B C D t = wA * A + wB * B + wC * C + wD * D ∧ wA + wB + wC + wD = 1 ∧
     (0 ≤ t → t < 1 → wA ≤ 0 ∧ wD ≤ 0))

/-- R110, R100: every sample `RESIZE.BL` writes lies between the least and the greatest sample of its
source plane. -/
def Obligations.BilinearStaysBetweenSourceSamples : Prop :=
  ∀ (d src : Slot) (tw th : Nat) (s t : State) (B B' : PixelBuffer), d ≠ src →
    s.params.DecidedReals → s.slot src = .full B → B.Legal s.params.slotCap → s.status ≠ .faulted →
    exec (.resizeBl d src tw th) s = .next t → t.status ≠ .faulted → t.slot d = .full B' →
    ∀ c < B.planes.count, ∀ lo hi : Nat,
      (∀ v ∈ B.planes.plane c, lo ≤ v.toNat ∧ v.toNat ≤ hi) →
      ∀ v ∈ B'.planes.plane c, lo ≤ v.toNat ∧ v.toNat ≤ hi

/-- R105: the coordinate map, and its integer form: with `N = (2*x+1)*sw - tw` and `D = 2*tw`, the
floor position of `u = (x + 1/2)*sw/tw` is `floor(N / D)`, its fraction is `(N - ix*D)/D`, and `ix`
lies in `-1 .. sw-1`. -/
def Obligations.SourceCoordinateIntegerForm : Prop :=
  ∀ x sw tw : Nat, 1 ≤ sw → x < tw →
    let u := sourceCoord .exact x sw tw
    let N : Int := (2 * x + 1) * sw - tw
    let D : Int := 2 * tw
    let ix := (u - 1 / 2).floor
    u = ((x : ℚ) + 1 / 2) * sw / tw ∧ ix = N / D ∧
    frac (u - 1 / 2) = ((N - ix * D : Int) : ℚ) / (D : ℚ) ∧ -1 ≤ ix ∧ ix ≤ (sw : Int) - 1

/-- R95: at the centre of a pixel `SampleBicubic` is that pixel's sample clamped to `maxval`, and
`BilinearAt` is the sample itself (R102(a)), whatever the neighbours are. -/
def Obligations.SamplersInterpolateAtPixelCentres : Prop :=
  ∀ (pr : Config.Params) (p : Plane) (w h maxval x y : Nat), pr.DecidedReals → x < w → y < h →
    sampleBicubic pr p ((x : ℚ) + 1 / 2) ((y : ℚ) + 1 / 2) w h maxval =
      min (sampleInt (p.sample (y * w + x))) maxval ∧
    bilinearAt pr p ((x : ℚ) + 1 / 2) ((y : ℚ) + 1 / 2) w h = sampleInt (p.sample (y * w + x))

/-- R92, R93, R94 with the weights of R91(c), at the values R3 decides: `SampleBicubic` at any point is
`floor(val + 1/2)` clamped to `0 .. maxval`, `val` the sum over the 4 by 4 neighbourhood of columns
`ix-1 .. ix+2` and rows `iy-1 .. iy+2`, each clamped into the plane, of the sample times its row's and
its column's weight. -/
def Obligations.BicubicSampleValue : Prop :=
  ∀ (pr : Config.Params) (p : Plane) (u v : ℚ) (w h maxval : Nat), pr.DecidedReals →
    1 ≤ w → 1 ≤ h →
    let ix := ⌊u - 1 / 2⌋
    let iy := ⌊v - 1 / 2⌋
    let weight (t : ℚ) : Fin 4 → ℚ :=
      ![(-t ^ 3 + 2 * t ^ 2 - t) / 2, (3 * t ^ 3 - 5 * t ^ 2 + 2) / 2,
        (-3 * t ^ 3 + 4 * t ^ 2 + t) / 2, (t ^ 3 - t ^ 2) / 2]
    let col (k : Fin 4) := (max 0 (min (ix - 1 + k.val) (w - 1))).toNat
    let row (k : Fin 4) := (max 0 (min (iy - 1 + k.val) (h - 1))).toNat
    let val := ∑ r : Fin 4, ∑ c : Fin 4,
      weight (v - 1 / 2 - iy) r * weight (u - 1 / 2 - ix) c * (p.sample (row r * w + col c)).toNat
    sampleBicubic pr p u v w h maxval = max 0 (min (maxval : Int) ⌊val + 1 / 2⌋)

/-- R100, R101, at the values R3 decides: `BilinearAt` at any point is `floor(val + 1/2)`, `val` the blend
of the corners at columns `ix`, `ix+1` and rows `iy`, `iy+1`, each clamped into the plane on all four
sides, by the fractions of the two coordinates. -/
def Obligations.BilinearSampleValue : Prop :=
  ∀ (pr : Config.Params) (p : Plane) (u v : ℚ) (w h : Nat), pr.DecidedReals → 1 ≤ w → 1 ≤ h →
    let ix := ⌊u - 1 / 2⌋
    let iy := ⌊v - 1 / 2⌋
    let fx := u - 1 / 2 - ix
    let fy := v - 1 / 2 - iy
    let corner (i j : Int) : ℚ :=
      (p.sample ((max 0 (min (iy + j) (h - 1))).toNat * w + (max 0 (min (ix + i) (w - 1))).toNat)).toNat
    bilinearAt pr p u v w h =
      ⌊(1 - fx) * (1 - fy) * corner 0 0 + fx * (1 - fy) * corner 1 0 +
        (1 - fx) * fy * corner 0 1 + fx * fy * corner 1 1 + 1 / 2⌋

/-- R6: with exact arithmetic, rounding half away from zero and truncating `q + 1/2` toward zero give
the same final sample as `floor(q + 1/2)`, for both samplers, at every point of every plane. -/
def Obligations.TieRulesAgree : Prop :=
  ∀ (pr : Config.Params) (tie : Config.Rounding) (p : Plane) (u v : ℚ) (w h maxval : Nat),
    pr.DecidedReals → tie = .halfAway ∨ tie = .truncHalf →
    sampleBicubic { pr with round := tie } p u v w h maxval = sampleBicubic pr p u v w h maxval ∧
    bilinearAt { pr with round := tie } p u v w h = bilinearAt pr p u v w h

/-! ## DEMOSAIC (`43_demosaic.md`) -/

/-- R126 (R124, R125): the two `DEMOSAIC` commands test, in order, for one slot named twice, an empty
source and a source that has not one plane; else they complete with the resize, to the same size and
by their own filter, of the blocky intermediate, and nothing else but `pc` changes. -/
def Obligations.DemosaicDeliversResizedIntermediate : Prop :=
  ∀ (d src : Slot) (s : State) (i : Instr) (m : Filter),
    (i = .demosaicBc d src ∧ m = .bicubic) ∨ (i = .demosaicBl d src ∧ m = .bilinear) →
    (d = src → Raises i s 8 0) ∧
    (d ≠ src → s.slot src = .empty → Raises i s 6 0) ∧
    (∀ B : PixelBuffer, d ≠ src → s.slot src = .full B →
      (B.planes.count ≠ 1 → Raises i s 7 0) ∧
      (B.planes.count = 1 → ∃ t, exec i s = .next t ∧ s.OnlySlotWritten t d ∧
        t.slot d = .full (resizeBuffer s.params (blocky B) B.width B.height m)))

/-- R127, R122, R123: both `DEMOSAIC` commands deliver the blocky intermediate itself: in every 2 by 2
block the red sensel fills plane 0, the blue sensel plane 2, and the greens stand on the diagonals of
plane 1; a trailing odd column or row is 0 in all three planes. (`ARITH` and `ROUND` are as R3 decides:
otherwise R127 "no longer follows".) -/
def Obligations.DemosaicIsBlockReplication : Prop :=
  ∀ (i : Instr) (d src : Slot) (s : State) (B : PixelBuffer) (S : Plane),
    i = .demosaicBc d src ∨ i = .demosaicBl d src → d ≠ src → s.slot src = .full B →
    s.params.DecidedReals → B.planes = .one S → B.Legal s.params.slotCap → B.InRange →
    ∃ t p0 p1 p2, exec i s = .next t ∧
      t.slot d = .full { width := B.width, height := B.height, maxval := B.maxval,
                         planes := .three p0 p1 p2 } ∧
      p0.length = B.width * B.height ∧ p1.length = B.width * B.height ∧
      p2.length = B.width * B.height ∧
      (∀ bi < B.width / 2, ∀ bj < B.height / 2,
        let w := B.width
        let tl := 2 * bj * w + 2 * bi
        (p0.sample tl = S.sample tl ∧ p0.sample (tl + 1) = S.sample tl ∧
          p0.sample (tl + w) = S.sample tl ∧ p0.sample (tl + w + 1) = S.sample tl) ∧
        (p1.sample tl = S.sample (tl + 1) ∧ p1.sample (tl + w + 1) = S.sample (tl + 1) ∧
          p1.sample (tl + 1) = S.sample (tl + w) ∧ p1.sample (tl + w) = S.sample (tl + w)) ∧
        (p2.sample tl = S.sample (tl + w + 1) ∧ p2.sample (tl + 1) = S.sample (tl + w + 1) ∧
          p2.sample (tl + w) = S.sample (tl + w + 1) ∧
          p2.sample (tl + w + 1) = S.sample (tl + w + 1))) ∧
      (∀ x < B.width, ∀ y < B.height, B.width / 2 ≤ x / 2 ∨ B.height / 2 ≤ y / 2 →
        p0.sample (y * B.width + x) = 0 ∧ p1.sample (y * B.width + x) = 0 ∧
        p2.sample (y * B.width + x) = 0)

/-! ## RGB2YCC and YCC2RGB (`44_color_matrix.md`) -/

/-- R136, R135: `RGB2YCC` of a three-plane buffer completes: every pixel goes through the three
formulae, `Y` in the chroma lines the clipped one; nothing else but `pc` changes. Where `SHIFT` is as R3
decides, `>> 16` is the floor of the division by 65536; the `Y` line shifts no negative integer, and is
that for every value of `SHIFT` (U6). -/
def Obligations.Rgb2yccDeliversFormulae : Prop :=
  ∀ (d src : Slot) (s : State) (B : PixelBuffer) (pR pG pB : Plane), d ≠ src →
    s.slot src = .full B → B.planes = .three pR pG pB →
    ∃ t q0 q1 q2, exec (.rgb2ycc d src) s = .next t ∧ s.OnlySlotWritten t d ∧
      t.slot d = .full { width := B.width, height := B.height, maxval := B.maxval,
                         planes := .three q0 q1 q2 } ∧
      q0.length = B.width * B.height ∧ q1.length = B.width * B.height ∧
      q2.length = B.width * B.height ∧
      ∀ i < B.width * B.height,
        let R := sampleInt (pR.sample i)
        let G := sampleInt (pG.sample i)
        let Bl := sampleInt (pB.sample i)
        let Y := max 0 (min 255 ((19595 * R + 38470 * G + 7471 * Bl) / 65536))
        sampleInt (q0.sample i) = Y ∧
        (s.params.shift = .floor →
          sampleInt (q1.sample i) = max 0 (min 255 (36962 * (Bl - Y) / 65536 + 128)) ∧
          sampleInt (q2.sample i) = max 0 (min 255 (46727 * (R - Y) / 65536 + 128)))

/-- R141, R135: `YCC2RGB` of a three-plane buffer completes, likewise, and for every value of `SHIFT`: "all
shifted quantities are non-negative". -/
def Obligations.Ycc2rgbDeliversFormulae : Prop :=
  ∀ (d src : Slot) (s : State) (B : PixelBuffer) (pY pCb pCr : Plane), d ≠ src →
    s.slot src = .full B → B.planes = .three pY pCb pCr →
    ∃ t q0 q1 q2, exec (.ycc2rgb d src) s = .next t ∧ s.OnlySlotWritten t d ∧
      t.slot d = .full { width := B.width, height := B.height, maxval := B.maxval,
                         planes := .three q0 q1 q2 } ∧
      q0.length = B.width * B.height ∧ q1.length = B.width * B.height ∧
      q2.length = B.width * B.height ∧
      ∀ i < B.width * B.height,
        let Y := sampleInt (pY.sample i)
        let Cb := sampleInt (pCb.sample i)
        let Cr := sampleInt (pCr.sample i)
        sampleInt (q0.sample i) = max 0 (min 255 (Y + 91881 * Cr / 65536 - 179)) ∧
        sampleInt (q1.sample i) = max 0 (min 255 (Y - (22544 * Cb + 46793 * Cr) / 65536 + 135)) ∧
        sampleInt (q2.sample i) = max 0 (min 255 (Y + 116129 * Cb / 65536 - 226))

/-- R139: `RGB2YCC` then `YCC2RGB` changes no sample of an 8-bit buffer by more than 1 in R, 2 in G
and 2 in B. (`SHIFT` is as R3 decides; R139 shows that truncation would break it.) -/
def Obligations.ColorRoundTripIsWithinTwo : Prop :=
  ∀ (src mid d : Slot) (s : State) (B : PixelBuffer) (pR pG pB : Plane),
    s.params.shift = .floor → mid ≠ src → d ≠ mid → s.slot src = .full B → B.planes = .three pR pG pB →
    B.samplesAtMost 255 →
    ∃ t u q0 q1 q2, exec (.rgb2ycc mid src) s = .next t ∧ exec (.ycc2rgb d mid) t = .next u ∧
      u.slot d = .full { width := B.width, height := B.height, maxval := B.maxval,
                         planes := .three q0 q1 q2 } ∧
      ∀ i < B.width * B.height,
        |sampleInt (q0.sample i) - sampleInt (pR.sample i)| ≤ 1 ∧
        |sampleInt (q1.sample i) - sampleInt (pG.sample i)| ≤ 2 ∧
        |sampleInt (q2.sample i) - sampleInt (pB.sample i)| ≤ 2

/-- R140(a), (b): for 8-bit samples no clip of `RGB2YCC` acts, `Cb` and `Cr` lie in 1 to 255, and a
grey pixel keeps its value with neutral chroma. -/
def Obligations.Rgb2yccOnEightBitSamples : Prop :=
  ∀ R G B : Int, (0 ≤ R ∧ R ≤ 255) → (0 ≤ G ∧ G ≤ 255) → (0 ≤ B ∧ B ≤ 255) →
    rgbY .floor R G B = (19595 * R + 38470 * G + 7471 * B) / 65536 ∧
    rgbCb .floor R G B = 36962 * (B - rgbY .floor R G B) / 65536 + 128 ∧
    rgbCr .floor R G B = 46727 * (R - rgbY .floor R G B) / 65536 + 128 ∧
    (1 ≤ rgbCb .floor R G B ∧ rgbCb .floor R G B ≤ 255) ∧ (1 ≤ rgbCr .floor R G B ∧ rgbCr .floor R G B ≤ 255) ∧
    (R = G → G = B → rgbY .floor R G B = R ∧ rgbCb .floor R G B = 128 ∧ rgbCr .floor R G B = 128)

/-! ## FREE and HALT (`45_control.md`) -/

/-- R150: the word with `op = 0x07` and slot `d` is `FREE`; `FREE` empties its slot, whatever it held
(empty or full), raises no fault and changes nothing else but `pc`; a later read of the slot faults. -/
def Obligations.FreeEmptiesSlot : Prop :=
  ∀ (d : Slot) (s : State),
    (d.val < s.params.nbuf →
      decode s.params.nbuf (commandOfWords (BitVec.ofNat 32 (0x07000000 + 0x00100000 * d.val)) 0 0 0)
        = .ok (.free d)) ∧
    ∃ t, exec (.free d) s = .next t ∧ t.slot d = .empty ∧ s.OnlySlotWritten t d ∧
      Raises (.pack d 0) t 6 0

/-- R151: `HALT` is `op = 0x08` with every other bit zero; it sets `STATUS` to HALTED and changes
nothing else, `pc` staying at the `HALT`; after it a step changes nothing (the model's choice, log
entry 6) and a START runs the program from entry 0 with the slots and memories as they are; no other
command ends a run well. -/
def Obligations.HaltStopsTheEngine : Prop :=
  (∀ (nbuf : Nat) (C : Command), decode nbuf C = .ok .halt ↔ C = commandOfWords 0x08000000 0 0 0) ∧
  (∀ s t : State, exec .halt s = .next { s with status := .halted } ∧
    (exec .halt s = .next t → step t = .next t ∧
      hostMove (.writeReg 0 1) t = .next { s with pc := 0, status := .running })) ∧
  (∀ (i : Instr) (s t : State), exec i s = .next t → s.status = .running → t.status = .halted →
    i = .halt)

/-! ## Reset, registers and the host (`10_state.md` R19, R20, `70_reset_and_hazards.md`) -/

/-- R190: what both resets leave; the soft reset keeps the two memories. (The parameters of
`State.reset` are the model's choice, log entry 2.) -/
def Obligations.ResetsLeaveTheTable : Prop :=
  ∀ (p : Config.Params) (s : State),
    ((∀ k, (State.powerOn p).slot k = .empty) ∧ (State.powerOn p).pc = 0 ∧
      (State.powerOn p).status = .idle ∧ (State.powerOn p).err = 0 ∧
      (State.powerOn p).errInfo = 0 ∧ (State.powerOn p).errPc = 0) ∧
    ((∀ k, s.softReset.slot k = .empty) ∧ s.softReset.pc = 0 ∧ s.softReset.status = .idle ∧
      s.softReset.err = 0 ∧ s.softReset.errInfo = 0 ∧ s.softReset.errPc = 0 ∧
      s.softReset.mem = s.mem ∧ s.softReset.cmd = s.cmd ∧
      (∀ a, s.softReset.readByte a = s.readByte a) ∧
      (∀ i, s.softReset.readCommand i = s.readCommand i)) ∧
    State.reset = State.powerOn State.reset.params

/-- R20: a host write of `CTRL`, in its order of test: RESET in any engine state, with the START bit
ignored; else START, from IDLE and HALTED only, which writes `pc` and `STATUS` only; else nothing. -/
def Obligations.CtrlWriteStartsOrResets : Prop :=
  ∀ (s : State) (v : Word),
    let after (t : State) := hostMove (.writeReg 0 v) s = .next t
    if v[1] then after s.softReset
    else if v[0] then
      (s.status = .idle ∨ s.status = .halted → after { s with pc := 0, status := .running }) ∧
      (s.status = .running ∨ s.status = .faulted → after s)
    else after s

/-- R19: what the host reads: the sequencer's registers zero-extended, `CTRL` as 0, the three
descriptors of each slot as views of the slot, and 0 at every other number. -/
def Obligations.RegistersAreViewsOfState : Prop :=
  ∀ s : State,
    (s.register 0x00 = 0 ∧ (s.register 0x02).toNat = s.pc.toNat ∧
      (s.register 0x03).toNat = s.err.toNat ∧ (s.register 0x04).toNat = s.errInfo.toNat ∧
      (s.register 0x05).toNat = s.errPc.toNat) ∧
    ((s.status = .idle → s.register 0x01 = 0) ∧ (s.status = .running → s.register 0x01 = 1) ∧
      (s.status = .halted → s.register 0x01 = 2) ∧ (s.status = .faulted → s.register 0x01 = 3)) ∧
    (∀ k : Slot, k.val < s.params.nbuf →
      let reg (n : Nat) := (s.register (BitVec.ofNat 8 (0x10 + 4 * k.val + n))).toNat
      (s.slot k = .empty → reg 0 = 0 ∧ reg 1 = 0 ∧ reg 2 = 0) ∧
      (∀ B, s.slot k = .full B → B.Legal s.params.slotCap →
        reg 0 = 1 + 2 * B.planes.count ∧ reg 1 = B.width + 65536 * B.height ∧
        reg 2 = B.maxval) ∧
      reg 3 = 0) ∧
    (∀ n : BitVec 8, (5 < n.toNat ∧ n.toNat < 0x10) ∨ 0x10 + 4 * s.params.nbuf ≤ n.toNat → s.register n = 0)

/-- R194, R43: the host cannot write a slot: a move of the host leaves every slot as it was, or is a
RESET, after which every slot is empty. -/
def Obligations.HostCannotWriteSlots : Prop :=
  ∀ (m : HostMove) (s t : State), hostMove m s = .next t →
    t.slots = s.slots ∨
    ((∃ v : Word, m = .writeReg 0 v ∧ v[1] = true) ∧ ∀ k, t.slot k = .empty)

/-- R194, R40: while the engine is not RUNNING and inside the two memories, the host's write of a byte
and of a command completes: what it wrote is what is read there, every other byte and entry is as it
was, and nothing else of the state changes. In every other case the move is refused by name (the
model's answer to U2 and U3, log entry 14). -/
def Obligations.HostWritesTheMemories : Prop :=
  ∀ (s : State) (a i : Nat) (b : Byte) (W0 W1 W2 W3 : Word),
    let byteMove := hostMove (.writeMem a b) s
    let commandMove := hostMove (.writeCmd i W0 W1 W2 W3) s
    (s.status ≠ .running → a < s.params.memBytes → ∃ t, byteMove = .next t ∧
      t = { s with mem := t.mem } ∧ t.hostReadMem a = .ok b ∧
      ∀ q, q ≠ a → t.readByte q = s.readByte q) ∧
    (s.status ≠ .running → i < s.params.ncmd → ∃ t, commandMove = .next t ∧
      t = { s with cmd := t.cmd } ∧ t.readCommand i = W0 ++ W1 ++ W2 ++ W3 ∧
      ∀ q, q ≠ i → t.readCommand q = s.readCommand q) ∧
    (s.status = .running → byteMove = .refused .hostAccessWhileRunning ∧
      commandMove = .refused .hostAccessWhileRunning) ∧
    (s.status ≠ .running → s.params.memBytes ≤ a → byteMove = .refused .hostAccessOutside) ∧
    (s.status ≠ .running → s.params.ncmd ≤ i → commandMove = .refused .hostAccessOutside)
end

