-- ==== Sys2Proof/Laws/Decode.lean ====
section
/-! SUPPORT. Fields of an assembled command: reading the fields of `Fields.command` gives the fields
back, and how AND acts on a concatenation, the step from a row's mask to its fields. -/

namespace Sys2Proof

/-- A concatenation as a number. -/
theorem toNat_append_eq {m n : Nat} (x : BitVec m) (y : BitVec n) :
    (x ++ y).toNat = x.toNat * 2 ^ n + y.toNat := by
  rw [BitVec.toNat_append, ← Nat.shiftLeft_add_eq_or_of_lt y.isLt, Nat.shiftLeft_eq]

/-- A field as a number. -/
theorem fieldAt_eq (C : Command) (lo width : Nat) :
    fieldAt C lo width = C.toNat / 2 ^ lo % 2 ^ width := by
  simp [fieldAt, Nat.shiftRight_eq_div_pow]

/-- AND of two concatenations, part by part. -/
theorem append_and_append {m n : Nat} (x u : BitVec m) (y v : BitVec n) :
    (x ++ y) &&& (u ++ v) = (x &&& u) ++ (y &&& v) := by
  apply BitVec.eq_of_getLsbD_eq
  intro i hi
  simp only [BitVec.getLsbD_and, BitVec.getLsbD_append]
  split <;> rfl

/-- Two concatenations are equal when their parts are. -/
theorem append_inj {m n : Nat} {x u : BitVec m} {y v : BitVec n} :
    x ++ y = u ++ v ↔ x = u ∧ y = v := by
  constructor
  · intro h
    have h' := congrArg BitVec.toNat h
    rw [toNat_append_eq, toNat_append_eq] at h'
    have hy := y.isLt
    have hv := v.isLt
    have hlo : y.toNat = v.toNat := by
      have := congrArg (· % 2 ^ n) h'
      simpa [Nat.mul_add_mod, Nat.mod_eq_of_lt hy, Nat.mod_eq_of_lt hv, Nat.mul_comm _ (2 ^ n)] using this
    have hhi : x.toNat = u.toNat := by
      rw [hlo] at h'
      exact Nat.eq_of_mul_eq_mul_right (Nat.two_pow_pos n) (Nat.add_right_cancel h')
    exact ⟨BitVec.eq_of_toNat_eq hhi, BitVec.eq_of_toNat_eq hlo⟩
  · rintro ⟨rfl, rfl⟩
    rfl

/-- Every field fits its width (R51). -/
abbrev Fields.fit (f : Fields) : Prop :=
  fits 8 f.op ∧ fits 4 f.d ∧ fits 4 f.s ∧ fits 16 f.imm16 ∧ fits 16 f.hi16 ∧ fits 16 f.lo16 ∧
  fits 32 f.addr ∧ fits 32 f.len

/-- The number an assembled command is. -/
theorem Fields.command_toNat (f : Fields) (h : f.fit) :
    f.command.toNat = ((((((f.op * 2 ^ 4 + f.d) * 2 ^ 4 + f.s) * 2 ^ 16 + f.imm16) * 2 ^ 16 + f.hi16)
      * 2 ^ 16 + f.lo16) * 2 ^ 32 + f.addr) * 2 ^ 32 + f.len := by
  obtain ⟨h1, h2, h3, h4, h5, h6, h7, h8⟩ := h
  simp only [fits] at *
  simp only [Fields.command, toNat_append_eq, BitVec.toNat_ofNat, Nat.mod_eq_of_lt, h1, h2, h3, h4,
    h5, h6, h7, h8]

/-- The fields of an assembled command are the fields it was assembled from. -/
theorem fieldsOf_command (f : Fields) (h : f.fit) : fieldsOf f.command = f := by
  have hc := f.command_toNat h
  obtain ⟨h1, h2, h3, h4, h5, h6, h7, h8⟩ := h
  simp only [fits] at *
  obtain ⟨op, d, s, imm16, hi16, lo16, addr, len⟩ := f
  simp only [fieldsOf, fieldAt_eq, hc, Fields.mk.injEq]
  simp only at h1 h2 h3 h4 h5 h6 h7 h8
  refine ⟨?_, ?_, ?_, ?_, ?_, ?_, ?_, ?_⟩ <;> omega

end Sys2Proof
end

