-- ==== Sys2Proof/Laws/State.lean ====
section
/-! SUPPORT. One lemma per field per update of the state, each true by `rfl`, so that no later proof
unfolds a record update; and the slot and memory reads of each update. -/

namespace Sys2Proof.Machine

/-! ## raise. The fault entry writes `STATUS`, `ERR`, `ERRINFO` and `ERRPC` only (R170). -/

@[simp] theorem State.raise_params (s : State) (f : Cause) (info : Nat) : (s.raise f info).params = s.params := rfl
@[simp] theorem State.raise_slots (s : State) (f : Cause) (info : Nat) : (s.raise f info).slots = s.slots := rfl
@[simp] theorem State.raise_pc (s : State) (f : Cause) (info : Nat) : (s.raise f info).pc = s.pc := rfl
@[simp] theorem State.raise_status (s : State) (f : Cause) (info : Nat) : (s.raise f info).status = .faulted := rfl
@[simp] theorem State.raise_err (s : State) (f : Cause) (info : Nat) : (s.raise f info).err = f.code := rfl
@[simp] theorem State.raise_errInfo (s : State) (f : Cause) (info : Nat) : (s.raise f info).errInfo = BitVec.ofNat 8 info := rfl
@[simp] theorem State.raise_errPc (s : State) (f : Cause) (info : Nat) : (s.raise f info).errPc = s.pc := rfl
@[simp] theorem State.raise_mem (s : State) (f : Cause) (info : Nat) : (s.raise f info).mem = s.mem := rfl
@[simp] theorem State.raise_cmd (s : State) (f : Cause) (info : Nat) : (s.raise f info).cmd = s.cmd := rfl
@[simp] theorem State.raise_slot (s : State) (f : Cause) (info : Nat) (j : Slot) : (s.raise f info).slot j = s.slot j := rfl
@[simp] theorem State.raise_readByte (s : State) (f : Cause) (info : Nat) (q : Nat) :
    (s.raise f info).readByte q = s.readByte q := rfl
@[simp] theorem State.raise_readCommand (s : State) (f : Cause) (info : Nat) (q : Nat) :
    (s.raise f info).readCommand q = s.readCommand q := rfl

/-! ## advance. `pc <- pc + 1` writes `pc` only (R17). -/

@[simp] theorem State.advance_params (s : State) : s.advance.params = s.params := rfl
@[simp] theorem State.advance_slots (s : State) : s.advance.slots = s.slots := rfl
@[simp] theorem State.advance_pc (s : State) : s.advance.pc = s.pc + 1 := rfl
@[simp] theorem State.advance_status (s : State) : s.advance.status = s.status := rfl
@[simp] theorem State.advance_err (s : State) : s.advance.err = s.err := rfl
@[simp] theorem State.advance_errInfo (s : State) : s.advance.errInfo = s.errInfo := rfl
@[simp] theorem State.advance_errPc (s : State) : s.advance.errPc = s.errPc := rfl
@[simp] theorem State.advance_mem (s : State) : s.advance.mem = s.mem := rfl
@[simp] theorem State.advance_cmd (s : State) : s.advance.cmd = s.cmd := rfl
@[simp] theorem State.advance_slot (s : State) (j : Slot) : s.advance.slot j = s.slot j := rfl
@[simp] theorem State.advance_readByte (s : State) (q : Nat) :
    s.advance.readByte q = s.readByte q := rfl
@[simp] theorem State.advance_readCommand (s : State) (q : Nat) :
    s.advance.readCommand q = s.readCommand q := rfl

/-! ## setSlot. `x[k] <- v` writes the slots only (R14). -/

@[simp] theorem State.setSlot_params (s : State) (k : Slot) (v : SlotValue) : (s.setSlot k v).params = s.params := rfl
@[simp] theorem State.setSlot_slots (s : State) (k : Slot) (v : SlotValue) : (s.setSlot k v).slots = s.slots.set k.val v k.isLt := rfl
@[simp] theorem State.setSlot_pc (s : State) (k : Slot) (v : SlotValue) : (s.setSlot k v).pc = s.pc := rfl
@[simp] theorem State.setSlot_status (s : State) (k : Slot) (v : SlotValue) : (s.setSlot k v).status = s.status := rfl
@[simp] theorem State.setSlot_err (s : State) (k : Slot) (v : SlotValue) : (s.setSlot k v).err = s.err := rfl
@[simp] theorem State.setSlot_errInfo (s : State) (k : Slot) (v : SlotValue) : (s.setSlot k v).errInfo = s.errInfo := rfl
@[simp] theorem State.setSlot_errPc (s : State) (k : Slot) (v : SlotValue) : (s.setSlot k v).errPc = s.errPc := rfl
@[simp] theorem State.setSlot_mem (s : State) (k : Slot) (v : SlotValue) : (s.setSlot k v).mem = s.mem := rfl
@[simp] theorem State.setSlot_cmd (s : State) (k : Slot) (v : SlotValue) : (s.setSlot k v).cmd = s.cmd := rfl
@[simp] theorem State.setSlot_readByte (s : State) (k : Slot) (v : SlotValue) (q : Nat) :
    (s.setSlot k v).readByte q = s.readByte q := rfl
@[simp] theorem State.setSlot_readCommand (s : State) (k : Slot) (v : SlotValue) (q : Nat) :
    (s.setSlot k v).readCommand q = s.readCommand q := rfl

/-! ## writeByte. `mem[a] <- b` writes the byte memory only. -/

@[simp] theorem State.writeByte_params (s : State) (a : Nat) (b : Byte) : (s.writeByte a b).params = s.params := rfl
@[simp] theorem State.writeByte_slots (s : State) (a : Nat) (b : Byte) : (s.writeByte a b).slots = s.slots := rfl
@[simp] theorem State.writeByte_pc (s : State) (a : Nat) (b : Byte) : (s.writeByte a b).pc = s.pc := rfl
@[simp] theorem State.writeByte_status (s : State) (a : Nat) (b : Byte) : (s.writeByte a b).status = s.status := rfl
@[simp] theorem State.writeByte_err (s : State) (a : Nat) (b : Byte) : (s.writeByte a b).err = s.err := rfl
@[simp] theorem State.writeByte_errInfo (s : State) (a : Nat) (b : Byte) : (s.writeByte a b).errInfo = s.errInfo := rfl
@[simp] theorem State.writeByte_errPc (s : State) (a : Nat) (b : Byte) : (s.writeByte a b).errPc = s.errPc := rfl
@[simp] theorem State.writeByte_mem (s : State) (a : Nat) (b : Byte) : (s.writeByte a b).mem = Cells.set s.mem a b := rfl
@[simp] theorem State.writeByte_cmd (s : State) (a : Nat) (b : Byte) : (s.writeByte a b).cmd = s.cmd := rfl
@[simp] theorem State.writeByte_slot (s : State) (a : Nat) (b : Byte) (j : Slot) : (s.writeByte a b).slot j = s.slot j := rfl
@[simp] theorem State.writeByte_readCommand (s : State) (a : Nat) (b : Byte) (q : Nat) :
    (s.writeByte a b).readCommand q = s.readCommand q := rfl

/-! ## memWrite. `MemWrite` writes the byte memory only. -/

@[simp] theorem State.memWrite_params (s : State) (a : Nat) (bs : List Byte) : (s.memWrite a bs).params = s.params := rfl
@[simp] theorem State.memWrite_slots (s : State) (a : Nat) (bs : List Byte) : (s.memWrite a bs).slots = s.slots := rfl
@[simp] theorem State.memWrite_pc (s : State) (a : Nat) (bs : List Byte) : (s.memWrite a bs).pc = s.pc := rfl
@[simp] theorem State.memWrite_status (s : State) (a : Nat) (bs : List Byte) : (s.memWrite a bs).status = s.status := rfl
@[simp] theorem State.memWrite_err (s : State) (a : Nat) (bs : List Byte) : (s.memWrite a bs).err = s.err := rfl
@[simp] theorem State.memWrite_errInfo (s : State) (a : Nat) (bs : List Byte) : (s.memWrite a bs).errInfo = s.errInfo := rfl
@[simp] theorem State.memWrite_errPc (s : State) (a : Nat) (bs : List Byte) : (s.memWrite a bs).errPc = s.errPc := rfl
@[simp] theorem State.memWrite_mem (s : State) (a : Nat) (bs : List Byte) : (s.memWrite a bs).mem = Cells.setMany s.mem a bs := rfl
@[simp] theorem State.memWrite_cmd (s : State) (a : Nat) (bs : List Byte) : (s.memWrite a bs).cmd = s.cmd := rfl
@[simp] theorem State.memWrite_slot (s : State) (a : Nat) (bs : List Byte) (j : Slot) : (s.memWrite a bs).slot j = s.slot j := rfl
@[simp] theorem State.memWrite_readCommand (s : State) (a : Nat) (bs : List Byte) (q : Nat) :
    (s.memWrite a bs).readCommand q = s.readCommand q := rfl

/-! ## writeCommand. `cmd[i] <- C` writes the command store only. -/

@[simp] theorem State.writeCommand_params (s : State) (i : Nat) (C : Command) : (s.writeCommand i C).params = s.params := rfl
@[simp] theorem State.writeCommand_slots (s : State) (i : Nat) (C : Command) : (s.writeCommand i C).slots = s.slots := rfl
@[simp] theorem State.writeCommand_pc (s : State) (i : Nat) (C : Command) : (s.writeCommand i C).pc = s.pc := rfl
@[simp] theorem State.writeCommand_status (s : State) (i : Nat) (C : Command) : (s.writeCommand i C).status = s.status := rfl
@[simp] theorem State.writeCommand_err (s : State) (i : Nat) (C : Command) : (s.writeCommand i C).err = s.err := rfl
@[simp] theorem State.writeCommand_errInfo (s : State) (i : Nat) (C : Command) : (s.writeCommand i C).errInfo = s.errInfo := rfl
@[simp] theorem State.writeCommand_errPc (s : State) (i : Nat) (C : Command) : (s.writeCommand i C).errPc = s.errPc := rfl
@[simp] theorem State.writeCommand_mem (s : State) (i : Nat) (C : Command) : (s.writeCommand i C).mem = s.mem := rfl
@[simp] theorem State.writeCommand_cmd (s : State) (i : Nat) (C : Command) : (s.writeCommand i C).cmd = Cells.set s.cmd i C := rfl
@[simp] theorem State.writeCommand_slot (s : State) (i : Nat) (C : Command) (j : Slot) : (s.writeCommand i C).slot j = s.slot j := rfl
@[simp] theorem State.writeCommand_readByte (s : State) (i : Nat) (C : Command) (q : Nat) :
    (s.writeCommand i C).readByte q = s.readByte q := rfl

/-! ## softReset. The soft reset keeps the two memories and clears the rest (R190). -/

@[simp] theorem State.softReset_params (s : State) : s.softReset.params = s.params := rfl
@[simp] theorem State.softReset_slots (s : State) : s.softReset.slots = Vector.replicate 16 .empty := rfl
@[simp] theorem State.softReset_pc (s : State) : s.softReset.pc = 0 := rfl
@[simp] theorem State.softReset_status (s : State) : s.softReset.status = .idle := rfl
@[simp] theorem State.softReset_err (s : State) : s.softReset.err = 0 := rfl
@[simp] theorem State.softReset_errInfo (s : State) : s.softReset.errInfo = 0 := rfl
@[simp] theorem State.softReset_errPc (s : State) : s.softReset.errPc = 0 := rfl
@[simp] theorem State.softReset_mem (s : State) : s.softReset.mem = s.mem := rfl
@[simp] theorem State.softReset_cmd (s : State) : s.softReset.cmd = s.cmd := rfl
@[simp] theorem State.softReset_readByte (s : State) (q : Nat) :
    s.softReset.readByte q = s.readByte q := rfl
@[simp] theorem State.softReset_readCommand (s : State) (q : Nat) :
    s.softReset.readCommand q = s.readCommand q := rfl

/-! ## Reads of the written slot -/

@[simp] theorem State.setSlot_slot_same (s : State) (k : Slot) (v : SlotValue) :
    (s.setSlot k v).slot k = v := by
  simp [State.slot, State.setSlot, Vector.get_eq_getElem]

@[simp] theorem State.setSlot_slot_ne (s : State) {k j : Slot} (h : j ≠ k) (v : SlotValue) :
    (s.setSlot k v).slot j = s.slot j := by
  have h' : ¬ k.val = j.val := fun e => h (Fin.ext e.symm)
  simp [State.slot, State.setSlot, Vector.get_eq_getElem, h']

@[simp] theorem State.powerOn_slot (p : Config.Params) (k : Slot) :
    (State.powerOn p).slot k = .empty := by
  simp [State.slot, State.powerOn, Vector.get_eq_getElem]

@[simp] theorem State.softReset_slot (s : State) (k : Slot) : s.softReset.slot k = .empty := by
  simp [State.slot, Vector.get_eq_getElem]

end Sys2Proof.Machine
end

