-- ==== Sys2Proof/Laws/Memory.lean ====
section
/-! SUPPORT. The laws of the two stores: a read after a write to the same key gives what was written,
a write leaves every other key alone, and every operation keeps the canonical form and the keys'
bound. -/

namespace Sys2Proof.Machine

variable {α : Type}

/-! ## Read after write -/

@[simp] theorem Cells.get?_set_same (m : List (Nat × α)) (a : Nat) (b : α) :
    Cells.get? (Cells.set m a b) a = some b := by
  induction m with
  | nil => simp [Cells.set, Cells.get?]
  | cons p rest ih =>
    obtain ⟨k, v⟩ := p
    simp only [Cells.set]
    split
    · simp [Cells.get?]
    · split
      · simp [Cells.get?]
      · have : k ≠ a := by omega
        simp [Cells.get?, this, ih]

@[simp] theorem Cells.get?_set_ne (m : List (Nat × α)) {a q : Nat} (h : q ≠ a) (b : α) :
    Cells.get? (Cells.set m a b) q = Cells.get? m q := by
  have h' : a ≠ q := fun e => h e.symm
  induction m with
  | nil => simp [Cells.set, Cells.get?, h']
  | cons p rest ih =>
    obtain ⟨k, v⟩ := p
    simp only [Cells.set]
    split
    · simp [Cells.get?, h']
    · split
      · have : k ≠ q := by omega
        simp [Cells.get?, h', this]
      · simp [Cells.get?, ih]

/-- A key below or above the written range reads as before. -/
theorem Cells.get?_setMany_outside (m : List (Nat × α)) (a q : Nat) (bs : List α)
    (h : q < a ∨ a + bs.length ≤ q) : Cells.get? (Cells.setMany m a bs) q = Cells.get? m q := by
  induction bs generalizing m a with
  | nil => rfl
  | cons b bs ih =>
    simp only [List.length_cons] at h
    rw [Cells.setMany, ih _ _ (by omega), Cells.get?_set_ne _ (by omega)]

/-- A key in the written range reads as the value written there. -/
theorem Cells.get?_setMany_inside (m : List (Nat × α)) (a i : Nat) (bs : List α)
    (h : i < bs.length) : Cells.get? (Cells.setMany m a bs) (a + i) = some bs[i] := by
  induction bs generalizing m a i with
  | nil => simp at h
  | cons b bs ih =>
    cases i with
    | zero =>
      rw [Cells.setMany, Cells.get?_setMany_outside _ _ _ _ (by omega)]
      simp
    | succ i =>
      have := ih (Cells.set m a b) (a + 1) i (by simpa using h)
      simpa [Cells.setMany, Nat.add_assoc, Nat.add_comm 1] using this

/-! ## Keys and the canonical form -/

theorem Cells.mem_set {m : List (Nat × α)} {a : Nat} {b : α} {p : Nat × α}
    (h : p ∈ Cells.set m a b) : p = (a, b) ∨ p ∈ m := by
  induction m with
  | nil => simpa [Cells.set] using h
  | cons q rest ih =>
    obtain ⟨k, v⟩ := q
    simp only [Cells.set] at h
    split at h
    · simpa using h
    · split at h
      · simp only [List.mem_cons] at h ⊢
        exact h.imp id Or.inr
      · simp only [List.mem_cons] at h ⊢
        rcases h with h | h
        · exact .inr (.inl h)
        · exact (ih h).imp id Or.inr

theorem Cells.set_wf {m : List (Nat × α)} (hm : Cells.wf m) (a : Nat) (b : α) :
    Cells.wf (Cells.set m a b) := by
  induction m with
  | nil => simp [Cells.set]
  | cons q rest ih =>
    obtain ⟨k, v⟩ := q
    have hk := (List.pairwise_cons.mp hm).1
    have hr := (List.pairwise_cons.mp hm).2
    simp only [Cells.set]
    split
    · refine List.pairwise_cons.mpr ⟨fun p hp => ?_, hm⟩
      rcases List.mem_cons.mp hp with rfl | hp
      · assumption
      · have := hk p hp
        simp only at this ⊢
        omega
    · split
      · subst a
        exact List.pairwise_cons.mpr ⟨hk, hr⟩
      · refine List.pairwise_cons.mpr ⟨fun p hp => ?_, ih hr⟩
        rcases Cells.mem_set hp with rfl | hp
        · simp only; omega
        · exact hk p hp

theorem Cells.setMany_wf {m : List (Nat × α)} (hm : Cells.wf m) (a : Nat) (bs : List α) :
    Cells.wf (Cells.setMany m a bs) := by
  induction bs generalizing m a with
  | nil => exact hm
  | cons b bs ih => exact ih (Cells.set_wf hm a b) (a + 1)

theorem Cells.set_keys_lt {m : List (Nat × α)} {n a : Nat} (hm : ∀ p ∈ m, p.1 < n) (ha : a < n)
    (b : α) : ∀ p ∈ Cells.set m a b, p.1 < n := by
  intro p hp
  rcases Cells.mem_set hp with rfl | hp
  · exact ha
  · exact hm p hp

theorem Cells.setMany_keys_lt {m : List (Nat × α)} {n a : Nat} (hm : ∀ p ∈ m, p.1 < n) (bs : List α)
    (ha : a + bs.length ≤ n) : ∀ p ∈ Cells.setMany m a bs, p.1 < n := by
  induction bs generalizing m a with
  | nil => exact hm
  | cons b bs ih =>
    simp only [List.length_cons] at ha
    exact ih (Cells.set_keys_lt hm (by omega) b) (by omega)

/-- Two stores in canonical form that list the same value at every key are the same list. -/
theorem Cells.ext_of_wf {m m' : List (Nat × α)} (hm : Cells.wf m) (hm' : Cells.wf m')
    (h : ∀ a, Cells.get? m a = Cells.get? m' a) : m = m' := by
  have notBelow : ∀ {r : List (Nat × α)} {k : Nat}, (∀ p ∈ r, k < p.1) → ∀ q, q ≤ k → Cells.get? r q = none := by
    intro r k hr q hq
    induction r with
    | nil => rfl
    | cons p rest ih =>
      have h1 := hr p (by simp)
      have : p.1 ≠ q := by omega
      obtain ⟨k', v'⟩ := p
      simp only at this
      simp [Cells.get?, this, ih fun p hp => hr p (by simp [hp])]
  induction m generalizing m' with
  | nil =>
    cases m' with
    | nil => rfl
    | cons p r => have := h p.1; simp [Cells.get?] at this
  | cons p r ih =>
    obtain ⟨k, v⟩ := p
    cases m' with
    | nil => have := h k; simp [Cells.get?] at this
    | cons p' r' =>
      obtain ⟨k', v'⟩ := p'
      have hr := List.pairwise_cons.mp hm
      have hr' := List.pairwise_cons.mp hm'
      have hk : k = k' := by
        rcases Nat.lt_trichotomy k k' with hlt | heq | hlt
        · have := h k
          rw [notBelow (r := (k', v') :: r') (k := k)
            (fun p hp => by rcases List.mem_cons.mp hp with rfl | hp
                            · exact hlt
                            · exact Nat.lt_trans hlt (hr'.1 p hp)) k (Nat.le_refl _)] at this
          simp [Cells.get?] at this
        · exact heq
        · have := h k'
          rw [notBelow (r := (k, v) :: r) (k := k')
            (fun p hp => by rcases List.mem_cons.mp hp with rfl | hp
                            · exact hlt
                            · exact Nat.lt_trans hlt (hr.1 p hp)) k' (Nat.le_refl _)] at this
          simp [Cells.get?] at this
      subst hk
      have hv : v = v' := by have := h k; simpa [Cells.get?] using this
      subst hv
      congr 1
      refine ih hr.2 hr'.2 fun a => ?_
      rcases Nat.lt_or_ge k a with hlt | hle
      · have := h a
        have hne : k ≠ a := by omega
        simpa [Cells.get?, hne] using this
      · rw [notBelow hr.1 a hle, notBelow hr'.1 a hle]

/-! ## The state's reads -/

@[simp] theorem State.writeByte_readByte_same (s : State) (a : Nat) (b : Byte) :
    (s.writeByte a b).readByte a = b := by simp [State.readByte]

@[simp] theorem State.writeByte_readByte_ne (s : State) {a q : Nat} (h : q ≠ a) (b : Byte) :
    (s.writeByte a b).readByte q = s.readByte q := by simp [State.readByte, h]

theorem State.memWrite_readByte_outside (s : State) (a q : Nat) (bs : List Byte)
    (h : q < a ∨ a + bs.length ≤ q) : (s.memWrite a bs).readByte q = s.readByte q := by
  simp [State.readByte, Cells.get?_setMany_outside _ _ _ _ h]

theorem State.memWrite_readByte_inside (s : State) (a i : Nat) (bs : List Byte)
    (h : i < bs.length) : (s.memWrite a bs).readByte (a + i) = bs[i] := by
  simp [State.readByte, Cells.get?_setMany_inside _ _ _ _ h]

@[simp] theorem State.writeCommand_readCommand_same (s : State) (i : Nat) (C : Command) :
    (s.writeCommand i C).readCommand i = C := by simp [State.readCommand]

@[simp] theorem State.writeCommand_readCommand_ne (s : State) {i q : Nat} (h : q ≠ i) (C : Command) :
    (s.writeCommand i C).readCommand q = s.readCommand q := by simp [State.readCommand, h]

/-- Every operation on the byte memory keeps its canonical form, and reset has it. -/
theorem Memory.wf_kept (s : State) (h : Memory.wf s.mem) :
    (∀ a b, Memory.wf (s.writeByte a b).mem) ∧ (∀ a bs, Memory.wf (s.memWrite a bs).mem) ∧
    Memory.wf s.softReset.mem :=
  ⟨fun a b => Cells.set_wf h a b, fun a bs => Cells.setMany_wf h a bs, h⟩

theorem Memory.wf_powerOn (p : Config.Params) : Memory.wf (State.powerOn p).mem :=
  List.Pairwise.nil

end Sys2Proof.Machine
end

