-- ==== Sys2Proof/Laws/Operands.lean ====
section
/-! SUPPORT. The small laws of the operand forms and of the arithmetic primitives: planes, payload
lengths, clamping, and the passage between samples and integers. -/

namespace Sys2Proof.Machine

/-! ## Arithmetic (R4, R7) -/

theorem clamp_of_mem {v lo hi : Int} (h1 : lo ≤ v) (h2 : v ≤ hi) : clamp v lo hi = v := by
  unfold clamp; split <;> [omega; split <;> omega]

theorem clamp_bounds (v : Int) {lo hi : Int} (h : lo ≤ hi) : lo ≤ clamp v lo hi ∧ clamp v lo hi ≤ hi := by
  unfold clamp; split <;> [omega; split <;> omega]

theorem clip8_bounds (v : Int) : 0 ≤ clip8 v ∧ clip8 v ≤ 255 := clamp_bounds v (by omega)

@[simp] theorem sampleInt_nonneg (v : Sample) : 0 ≤ sampleInt v := Int.natCast_nonneg _

theorem sampleInt_le (v : Sample) : sampleInt v ≤ 65535 := by
  have := v.isLt
  unfold sampleInt
  omega

/-- Storing an integer of 0 to 65535 as a sample and reading it back gives it. -/
theorem sampleInt_sampleOfInt {v : Int} (h0 : 0 ≤ v) (h1 : v ≤ 65535) :
    sampleInt (sampleOfInt v) = v := by
  simp only [sampleInt, sampleOfInt, BitVec.toNat_ofInt]
  omega

/-- A sample read and stored again is the sample. -/
@[simp] theorem sampleOfInt_sampleInt (v : Sample) : sampleOfInt (sampleInt v) = v := by
  simp [sampleInt, sampleOfInt]

/-! ## Planes (R11) -/

@[simp] theorem Plane.tabulate_length (n : Nat) (f : Nat → Sample) : (Plane.tabulate n f).length = n := by
  simp [Plane.tabulate]

theorem Plane.tabulate_sample (n : Nat) (f : Nat → Sample) {i : Nat} (h : i < n) :
    (Plane.tabulate n f).sample i = f i := by
  simp [Plane.tabulate, Plane.sample, List.getD_eq_getElem?_getD, h]

theorem Plane.mem_tabulate {n : Nat} {f : Nat → Sample} {v : Sample} :
    v ∈ Plane.tabulate n f ↔ ∃ i < n, f i = v := by simp [Plane.tabulate]

/-- Two planes of one length with the same samples are the same plane. -/
theorem Plane.ext_sample {p q : Plane} (hl : p.length = q.length)
    (h : ∀ i < p.length, p.sample i = q.sample i) : p = q := by
  apply List.ext_getElem hl
  intro i h1 h2
  have := h i h1
  simpa [Plane.sample, List.getD_eq_getElem?_getD, h1, h2] using this

/-- A sample read from a plane is one of the plane's samples, or 0 past its end. -/
theorem Plane.sample_mem (p : Plane) (i : Nat) : p.sample i ∈ p ∨ p.sample i = 0 := by
  simp only [Plane.sample, List.getD_eq_getElem?_getD]
  rcases Nat.lt_or_ge i p.length with h | h
  · left; simp [h]
  · right; simp [h]

@[simp] theorem Planes.count_map (f : Plane → Plane) (P : Planes) : (P.map f).count = P.count := by
  cases P <;> rfl

@[simp] theorem Planes.toList_map (f : Plane → Plane) (P : Planes) :
    (P.map f).toList = P.toList.map f := by
  cases P <;> rfl

@[simp] theorem Planes.length_toList (P : Planes) : P.toList.length = P.count := by
  cases P <;> rfl

theorem Planes.count_eq (P : Planes) : P.count = 1 ∨ P.count = 3 := by
  cases P <;> simp [Planes.count]

@[simp] theorem Format.count_planes (c : Format) (f : Nat → Plane) : (c.planes f).count = c.channels := by
  cases c <;> rfl

/-- The test on the lists says what it is named for. -/
theorem PixelBuffer.samplesAtMost_iff {B : PixelBuffer} {m : Nat} :
    B.samplesAtMost m ↔ ∀ p ∈ B.planes.toList, ∀ v ∈ p, v.toNat ≤ m := by
  simp [PixelBuffer.samplesAtMost]

/-! ## Payloads (R31, R35) -/

theorem sampleBytes_eq (maxval : Nat) :
    (maxval ≤ 255 ∧ sampleBytes maxval = 1) ∨ (255 < maxval ∧ sampleBytes maxval = 2) := by
  unfold sampleBytes; split <;> omega

@[simp] theorem bytesOfSample_length (maxval : Nat) (v : Sample) :
    (bytesOfSample maxval v).length = sampleBytes maxval := by
  unfold bytesOfSample
  rcases sampleBytes_eq maxval with h | h <;> simp [h.2]

/-- A payload is as long as R35 says, in every state: also that of a buffer whose planes have the
wrong length. -/
theorem PixelBuffer.payload_length (B : PixelBuffer) :
    B.payload.length = payloadLength B.width B.height B.planes.count B.maxval := by
  simp only [PixelBuffer.payload, List.length_flatMap, bytesOfSample_length, List.map_const',
    List.sum_replicate, Planes.length_toList, List.length_range, payloadLength, smul_eq_mul]
  ring

end Sys2Proof.Machine
end

