-- ==== Sys2Proof/Laws/Ops.lean ====
section
/-! SUPPORT. What each shared operation can do, said once: the fault entry, the source tests, the
bodies shared by the commands of a unit, the fetch, and from these what `exec` and `step` can do. -/

namespace Sys2Proof.Machine

/-! ## The ways an operation ends -/

theorem trap_eq (s : State) (f : Cause) (info : Nat) : trap s f info = .next (s.raise f info) := rfl

theorem complete_eq (s : State) : complete s = .next s.advance := rfl

theorem deliver_eq (s : State) (d : Slot) (B : PixelBuffer) :
    deliver s d B = .next (s.setSlot d (.full B)).advance := rfl

/-! ## The source tests (R13, R167) -/

theorem withSource_empty {s : State} {src : Slot} (h : s.slot src = .empty)
    (k : PixelBuffer → Result) : withSource s src k = trap s .emptySlot 0 := by simp [withSource, h]

theorem withSource_full {s : State} {src : Slot} {B : PixelBuffer} (h : s.slot src = .full B)
    (k : PixelBuffer → Result) : withSource s src k = k B := by simp [withSource, h]

theorem withDistinctSource_same (s : State) (d : Slot) (k : PixelBuffer → Result) :
    withDistinctSource s d d k = trap s .slotConflict 0 := by simp [withDistinctSource]

theorem withDistinctSource_ne (s : State) {d src : Slot} (h : d ≠ src) (k : PixelBuffer → Result) :
    withDistinctSource s d src k = withSource s src k := by simp [withDistinctSource, h]

/-! ## The bodies -/

/-- What `Unpack` can do: raise a fault, or deliver the buffer, its tests passed (R70). -/
theorem unpack_cases (d : Slot) (c : Format) (w h maxval addr len : Nat) (s : State) :
    (∃ f info, unpack d c w h maxval addr len s = .next (s.raise f info)) ∨
    (unpack d c w h maxval addr len s = .next (s.setSlot d (.full (s.unpacked c w h maxval addr))).advance ∧
      (1 ≤ w ∧ w ≤ Config.dimMax) ∧ (1 ≤ h ∧ h ≤ Config.dimMax) ∧ maxval ≠ 0 ∧
      w * h ≤ s.params.slotCap ∧ len = payloadLength w h c.channels maxval ∧
      s.inMemory addr (payloadLength w h c.channels maxval) ∧
      s.payloadTooLarge c w h maxval addr = false) := by
  unfold unpack
  split
  · exact .inl ⟨_, _, rfl⟩
  split
  · exact .inl ⟨_, _, rfl⟩
  split
  · exact .inl ⟨_, _, rfl⟩
  split
  · exact .inl ⟨_, _, rfl⟩
  split
  · exact .inl ⟨_, _, rfl⟩
  split
  · exact .inl ⟨_, _, rfl⟩
  split
  · exact .inl ⟨_, _, rfl⟩
  · refine .inr ⟨rfl, ?_⟩
    rename_i h1 h2 h3 h4 h5 h6 h7
    refine ⟨by omega, by omega, h3, by omega, by simpa using h5, by simpa using h6, by simpa using h7⟩

/-- What `PACK` can do (R73). -/
theorem execPack_cases (src : Slot) (addr : Nat) (s : State) :
    (∃ f info, execPack src addr s = .next (s.raise f info)) ∨
    (∃ B, s.slot src = .full B ∧
      s.inMemory addr (payloadLength B.width B.height B.planes.count B.maxval) ∧
      execPack src addr s = .next (s.memWrite addr B.payload).advance) := by
  unfold execPack
  cases hs : s.slot src with
  | empty => exact .inl ⟨_, _, withSource_empty hs _⟩
  | full B =>
    rw [withSource_full hs]
    split
    · exact .inl ⟨_, _, rfl⟩
    · rename_i h
      exact .inr ⟨B, rfl, not_not.mp h, rfl⟩

/-- What a command with two slots can do, given what its body can do. -/
theorem withDistinctSource_cases (s : State) (d src : Slot) (k : PixelBuffer → Result)
    (g : PixelBuffer → PixelBuffer) (P : PixelBuffer → Prop)
    (hk : ∀ B, (∃ f info, k B = .next (s.raise f info)) ∨ (P B ∧ k B = deliver s d (g B))) :
    (∃ f info, withDistinctSource s d src k = .next (s.raise f info)) ∨
    (∃ B, d ≠ src ∧ s.slot src = .full B ∧ P B ∧
      withDistinctSource s d src k = .next (s.setSlot d (.full (g B))).advance) := by
  by_cases hd : d = src
  · subst hd
    exact .inl ⟨_, _, withDistinctSource_same s d k⟩
  rw [withDistinctSource_ne s hd]
  cases hs : s.slot src with
  | empty => exact .inl ⟨_, _, withSource_empty hs _⟩
  | full B =>
    rw [withSource_full hs]
    rcases hk B with h | ⟨hP, h⟩
    · exact .inl h
    · exact .inr ⟨B, hd, rfl, hP, h.trans (deliver_eq s d (g B))⟩

/-- What a `RESIZE` can do (R106). -/
theorem resize_cases (m : Filter) (d src : Slot) (tw th : Nat) (s : State) :
    (∃ f info, resize m d src tw th s = .next (s.raise f info)) ∨
    (∃ B, d ≠ src ∧ s.slot src = .full B ∧
      ((1 ≤ tw ∧ tw ≤ Config.dimMax) ∧ (1 ≤ th ∧ th ≤ Config.dimMax) ∧ tw * th ≤ s.params.slotCap) ∧
      resize m d src tw th s = .next (s.setSlot d (.full (resizeBuffer s.params B tw th m))).advance) := by
  refine withDistinctSource_cases s d src _ (resizeBuffer s.params · tw th m) (fun _ => _) fun B => ?_
  split
  · exact .inl ⟨_, _, rfl⟩
  split
  · exact .inl ⟨_, _, rfl⟩
  split
  · exact .inl ⟨_, _, rfl⟩
  · exact .inr ⟨by omega, rfl⟩

/-- What a `DEMOSAIC` can do (R126). -/
theorem demosaic_cases (m : Filter) (d src : Slot) (s : State) :
    (∃ f info, demosaic m d src s = .next (s.raise f info)) ∨
    (∃ B, d ≠ src ∧ s.slot src = .full B ∧ B.planes.count = 1 ∧
      demosaic m d src s = .next (s.setSlot d (.full (demosaicBuffer s.params B m))).advance) := by
  refine withDistinctSource_cases s d src _ (demosaicBuffer s.params · m) (fun B => B.planes.count = 1) fun B => ?_
  split
  · exact .inl ⟨_, _, rfl⟩
  · exact .inr ⟨by omega, rfl⟩

/-- What a colour command can do (R135). -/
theorem colorCommand_cases (g : PixelBuffer → PixelBuffer) (d src : Slot) (s : State) :
    (∃ f info, colorCommand g d src s = .next (s.raise f info)) ∨
    (∃ B, d ≠ src ∧ s.slot src = .full B ∧ B.planes.count = 3 ∧
      colorCommand g d src s = .next (s.setSlot d (.full (g B))).advance) := by
  refine withDistinctSource_cases s d src _ g (fun B => B.planes.count = 3) fun B => ?_
  split
  · exact .inl ⟨_, _, rfl⟩
  · exact .inr ⟨by omega, rfl⟩

/-! ## Fetch (R153, R168, R55) -/

/-- What the fetch can give. -/
theorem State.fetch_cases (s : State) :
    (s.params.ncmd ≤ s.pc.toNat ∧ s.fetch = .error (.fetchError, 0)) ∨
    (s.pc.toNat < s.params.ncmd ∧
      ((∃ e, decode s.params.nbuf (s.readCommand s.pc.toNat) = .error e ∧ s.fetch = .error (.illegalCommand, e.subcode)) ∨
       (∃ i, decode s.params.nbuf (s.readCommand s.pc.toNat) = .ok i ∧ s.fetch = .ok i))) := by
  unfold State.fetch
  split
  · exact .inl ⟨by assumption, rfl⟩
  · refine .inr ⟨by omega, ?_⟩
    cases decode s.params.nbuf (s.readCommand s.pc.toNat) with
    | error e => exact .inl ⟨e, rfl, rfl⟩
    | ok i => exact .inr ⟨i, rfl, rfl⟩

/-! ## The three shapes of a next state -/

/-- The shapes of the state after a command: a fault entry, a slot written, bytes written, or the
halt. -/
inductive Effect (s : State) : State → Prop where
  | raised (f : Cause) (info : Nat) : Effect s (s.raise f info)
  | slotWritten (d : Slot) (x : SlotValue) : Effect s (s.setSlot d x).advance
  | bytesWritten (addr : Nat) (bs : List Byte) (h : s.inMemory addr bs.length) :
      Effect s (s.memWrite addr bs).advance
  | stopped : Effect s { s with status := .halted }

/-- Every command answers a next state, of one of the four shapes. -/
theorem exec_effect (i : Instr) (s : State) : ∃ t, exec i s = .next t ∧ Effect s t := by
  cases i with
  | unpack1 d w h maxval addr len =>
    rcases unpack_cases d .single w h maxval addr len s with ⟨f, n, e⟩ | ⟨e, -⟩
    · exact ⟨_, e, .raised f n⟩
    · exact ⟨_, e, .slotWritten d _⟩
  | unpack3 d w h maxval addr len =>
    rcases unpack_cases d .three w h maxval addr len s with ⟨f, n, e⟩ | ⟨e, -⟩
    · exact ⟨_, e, .raised f n⟩
    · exact ⟨_, e, .slotWritten d _⟩
  | pack src addr =>
    rcases execPack_cases src addr s with ⟨f, n, e⟩ | ⟨B, -, h, e⟩
    · exact ⟨_, e, .raised f n⟩
    · exact ⟨_, e, .bytesWritten addr _ (by rwa [PixelBuffer.payload_length])⟩
  | resizeBc d src tw th =>
    rcases resize_cases .bicubic d src tw th s with ⟨f, n, e⟩ | ⟨B, -, -, -, e⟩
    · exact ⟨_, e, .raised f n⟩
    · exact ⟨_, e, .slotWritten d _⟩
  | resizeBl d src tw th =>
    rcases resize_cases .bilinear d src tw th s with ⟨f, n, e⟩ | ⟨B, -, -, -, e⟩
    · exact ⟨_, e, .raised f n⟩
    · exact ⟨_, e, .slotWritten d _⟩
  | demosaicBc d src =>
    rcases demosaic_cases .bicubic d src s with ⟨f, n, e⟩ | ⟨B, -, -, -, e⟩
    · exact ⟨_, e, .raised f n⟩
    · exact ⟨_, e, .slotWritten d _⟩
  | demosaicBl d src =>
    rcases demosaic_cases .bilinear d src s with ⟨f, n, e⟩ | ⟨B, -, -, -, e⟩
    · exact ⟨_, e, .raised f n⟩
    · exact ⟨_, e, .slotWritten d _⟩
  | rgb2ycc d src =>
    rcases colorCommand_cases (rgbToYcc s.params.shift) d src s with ⟨f, n, e⟩ | ⟨B, -, -, -, e⟩
    · exact ⟨_, e, .raised f n⟩
    · exact ⟨_, e, .slotWritten d _⟩
  | ycc2rgb d src =>
    rcases colorCommand_cases (yccToRgb s.params.shift) d src s with ⟨f, n, e⟩ | ⟨B, -, -, -, e⟩
    · exact ⟨_, e, .raised f n⟩
    · exact ⟨_, e, .slotWritten d _⟩
  | free d => exact ⟨_, rfl, .slotWritten d _⟩
  | halt => exact ⟨_, rfl, .stopped⟩

end Sys2Proof.Machine
end

