-- ==== Sys2Proof/Laws/PerInstr.lean ====
section
/-! SUPPORT. Per-instruction laws: one lemma per constructor of `Instr`. -/

namespace Sys2Proof.Laws.FieldsKept

/-- The word of a well-formed command, whatever `NBUF`, holds, field by field, exactly the fields R57 sets: no operand
is dropped, truncated or written over by another. -/
def Statement (i : Instr) : Prop := ∀ nbuf, i.WellFormed nbuf → fieldsOf (encode i) = i.fields

theorem of_fit (i : Instr) (h : i.operandsFit = true → i.fields.fit) : Statement i :=
  fun _ hw => fieldsOf_command i.fields (h (Bool.and_eq_true_iff.mp hw).1)

theorem unpack1 (d : Slot) (w h maxval addr len : Nat) : Statement (.unpack1 d w h maxval addr len) := by
  refine of_fit _ fun hw => ?_
  simp only [Instr.operandsFit, UnpackOperands.fit, decide_eq_true_eq] at hw
  simp only [Instr.fields, Fields.fit, fits] at hw ⊢
  omega

theorem unpack3 (d : Slot) (w h maxval addr len : Nat) : Statement (.unpack3 d w h maxval addr len) := by
  refine of_fit _ fun hw => ?_
  simp only [Instr.operandsFit, UnpackOperands.fit, decide_eq_true_eq] at hw
  simp only [Instr.fields, Fields.fit, fits] at hw ⊢
  omega

theorem pack (src : Slot) (addr : Nat) : Statement (.pack src addr) := by
  refine of_fit _ fun hw => ?_
  simp only [Instr.operandsFit, decide_eq_true_eq] at hw
  simp only [Instr.fields, Fields.fit, fits] at hw ⊢
  omega

theorem resizeBc (d src : Slot) (tw th : Nat) : Statement (.resizeBc d src tw th) := by
  refine of_fit _ fun hw => ?_
  simp only [Instr.operandsFit, decide_eq_true_eq] at hw
  simp only [Instr.fields, Fields.fit, fits] at hw ⊢
  omega

theorem resizeBl (d src : Slot) (tw th : Nat) : Statement (.resizeBl d src tw th) := by
  refine of_fit _ fun hw => ?_
  simp only [Instr.operandsFit, decide_eq_true_eq] at hw
  simp only [Instr.fields, Fields.fit, fits] at hw ⊢
  omega

theorem demosaicBc (d src : Slot) : Statement (.demosaicBc d src) := by
  refine of_fit _ fun _ => ?_
  simp only [Instr.fields, Fields.fit, fits]
  omega

theorem demosaicBl (d src : Slot) : Statement (.demosaicBl d src) := by
  refine of_fit _ fun _ => ?_
  simp only [Instr.fields, Fields.fit, fits]
  omega

theorem rgb2ycc (d src : Slot) : Statement (.rgb2ycc d src) := by
  refine of_fit _ fun _ => ?_
  simp only [Instr.fields, Fields.fit, fits]
  omega

theorem ycc2rgb (d src : Slot) : Statement (.ycc2rgb d src) := by
  refine of_fit _ fun _ => ?_
  simp only [Instr.fields, Fields.fit, fits]
  omega

theorem free (d : Slot) : Statement (.free d) := by
  refine of_fit _ fun _ => ?_
  simp only [Instr.fields, Fields.fit, fits]
  omega

theorem halt : Statement .halt := by
  refine of_fit _ fun _ => ?_
  simp only [Instr.fields, Fields.fit, fits]
  omega

end Sys2Proof.Laws.FieldsKept
end

