-- ==== Sys2Proof/Laws/Resampler.lean ====
section
/-! SUPPORT. The small laws of the resamplers and of the colour buffers: fractions and rounding, the
clamped neighbour lookup, and the samples and shapes of the buffers the units build. -/

namespace Sys2Proof.Machine

/-! ## Fractions and rounding (R6, section 5.1) -/

theorem frac_nonneg (q : Rat) : 0 ≤ frac q := by
  unfold frac
  linarith [Int.floor_le q, show (q.floor : ℚ) = ((⌊q⌋ : Int) : ℚ) from rfl]

theorem frac_lt_one (q : Rat) : frac q < 1 := by
  unfold frac
  linarith [Int.lt_floor_add_one q, show (q.floor : ℚ) = ((⌊q⌋ : Int) : ℚ) from rfl]

theorem floor_intCast_eq (n : Int) : (n : Rat).floor = n := Rat.floor_intCast n

/-- An integer has fraction 0. -/
theorem frac_intCast (n : Int) : frac (n : Rat) = 0 := by
  unfold frac
  rw [floor_intCast_eq]
  ring

/-- `roundHalfUp` keeps integer bounds. -/
theorem roundHalfUp_bounds {q : Rat} {lo hi : Int} (h1 : (lo : Rat) ≤ q) (h2 : q ≤ hi) :
    lo ≤ roundHalfUp q ∧ roundHalfUp q ≤ hi := by
  constructor
  · exact Int.le_floor.mpr (show (lo : ℚ) ≤ q + 1 / 2 by linarith)
  · have h : (q + 1 / 2 : ℚ) < ((hi + 1 : Int) : ℚ) := by push_cast; linarith
    have : roundHalfUp q < hi + 1 := Int.floor_lt.mpr h
    omega

/-- `roundHalfUp` of an integer is the integer. -/
theorem roundHalfUp_intCast (n : Int) : roundHalfUp (n : Rat) = n := by
  have := roundHalfUp_bounds (le_refl (n : Rat)) (le_refl (n : Rat))
  omega

/-! ## The parameters at the values R3 decides -/

@[simp] theorem cubic_exact (A B C D t : Rat) : cubic .exact A B C D t =
    (-A / 2 + 3 * B / 2 - 3 * C / 2 + D / 2) * t ^ 3 + (A - 5 * B / 2 + 2 * C - D / 2) * t ^ 2 +
      (-A / 2 + C / 2) * t + B := rfl
@[simp] theorem offset_exact (u : Rat) : offset .exact u = u - 1 / 2 := rfl
@[simp] theorem fraction_exact (q : Rat) : fraction .exact q = frac q := rfl
@[simp] theorem blend_exact (p11 p12 p21 p22 : Int) (fx fy : Rat) : blend .exact p11 p12 p21 p22 fx fy =
    (1 - fy) * ((1 - fx) * p11 + fx * p12) + fy * ((1 - fx) * p21 + fx * p22) := rfl
@[simp] theorem sourceCoord_exact (x sw tw : Nat) :
    sourceCoord .exact x sw tw = (2 * (x : Rat) + 1) * sw / (2 * tw) := rfl
@[simp] theorem roundTo_floorHalf (q : Rat) : roundTo .floorHalf q = roundHalfUp q := rfl
@[simp] theorem shiftRight_floor (v : Int) (n : Nat) : shiftRight .floor v n = v / 2 ^ n := by
  unfold shiftRight; split <;> rfl

/-- `SHIFT` is about negative integers only (R3). -/
theorem shiftRight_of_nonneg (m : Config.Shift) {v : Int} (h : 0 ≤ v) (n : Nat) :
    shiftRight m v n = v / 2 ^ n := by simp [shiftRight, h]

/-! ## The other tie rules R6 names -/

/-- Rounding half away from zero is `floor(q + 1/2)` where `q` is not negative (R6). -/
theorem roundTo_halfAway_of_nonneg {q : Rat} (h : 0 ≤ q) : roundTo .halfAway q = roundHalfUp q := by
  simp [roundTo, h]

/-- Truncating `q + 1/2` is `floor(q + 1/2)` where `q` is not negative (R6). -/
theorem roundTo_truncHalf_of_nonneg {q : Rat} (h : 0 ≤ q) : roundTo .truncHalf q = roundHalfUp q := by
  have h' : (0 : ℚ) ≤ q + 1 / 2 := by linarith
  rw [roundTo, truncate, if_pos h', roundHalfUp]

/-! ## The neighbour lookup (R93) -/

theorem Plane.px_nonneg (p : Plane) (w h : Nat) (i j : Int) : 0 ≤ p.px w h i j := sampleInt_nonneg _

theorem Plane.px_le (p : Plane) (w h : Nat) (i j : Int) : p.px w h i j ≤ 65535 := sampleInt_le _

/-- Inside the plane the lookup is the pixel itself. -/
theorem Plane.px_inside (p : Plane) {w h x y : Nat} (hx : x < w) (hy : y < h) :
    p.px w h x y = sampleInt (p.sample (y * w + x)) := by
  unfold Plane.px
  rw [clamp_of_mem (by omega) (by omega), clamp_of_mem (by omega) (by omega)]
  congr 2

/-- The lookup never leaves a plane of full length: its index is below `width*height`. -/
theorem Plane.px_index (p : Plane) {w h : Nat} (hw : 1 ≤ w) (hh : 1 ≤ h) (i j : Int) :
    ∃ x < w, ∃ y < h, p.px w h i j = sampleInt (p.sample (y * w + x)) := by
  obtain ⟨h1, h2⟩ := clamp_bounds i (lo := 0) (hi := (w : Int) - 1) (by omega)
  obtain ⟨h3, h4⟩ := clamp_bounds j (lo := 0) (hi := (h : Int) - 1) (by omega)
  refine ⟨(clamp i 0 (w - 1)).toNat, by omega, (clamp j 0 (h - 1)).toNat, by omega, ?_⟩
  unfold Plane.px
  congr 2
  have e1 : ((clamp i 0 (w - 1)).toNat : Int) = clamp i 0 (w - 1) := Int.toNat_of_nonneg h1
  have e2 : ((clamp j 0 (h - 1)).toNat : Int) = clamp j 0 (h - 1) := Int.toNat_of_nonneg h3
  have hnn : 0 ≤ clamp j 0 (h - 1) * w + clamp i 0 (w - 1) := by positivity
  zify
  rw [Int.toNat_of_nonneg hnn, e1, e2]

/-! ## The shapes of the buffers the units build -/

@[simp] theorem resizeBuffer_width (pr : Config.Params) (B : PixelBuffer) (tw th : Nat) (m : Filter) :
    (resizeBuffer pr B tw th m).width = tw := rfl
@[simp] theorem resizeBuffer_height (pr : Config.Params) (B : PixelBuffer) (tw th : Nat) (m : Filter) :
    (resizeBuffer pr B tw th m).height = th := rfl
@[simp] theorem resizeBuffer_maxval (pr : Config.Params) (B : PixelBuffer) (tw th : Nat) (m : Filter) :
    (resizeBuffer pr B tw th m).maxval = B.maxval := rfl
@[simp] theorem resizeBuffer_planes (pr : Config.Params) (B : PixelBuffer) (tw th : Nat) (m : Filter) :
    (resizeBuffer pr B tw th m).planes = B.planes.map (resizePlane pr m B tw th) := rfl
@[simp] theorem blocky_width (B : PixelBuffer) : (blocky B).width = B.width := rfl
@[simp] theorem blocky_height (B : PixelBuffer) : (blocky B).height = B.height := rfl
@[simp] theorem blocky_maxval (B : PixelBuffer) : (blocky B).maxval = B.maxval := rfl
@[simp] theorem mixBuffer_width (B : PixelBuffer) (f g h : Int → Int → Int → Int) :
    (mixBuffer B f g h).width = B.width := rfl
@[simp] theorem mixBuffer_height (B : PixelBuffer) (f g h : Int → Int → Int → Int) :
    (mixBuffer B f g h).height = B.height := rfl
@[simp] theorem mixBuffer_maxval (B : PixelBuffer) (f g h : Int → Int → Int → Int) :
    (mixBuffer B f g h).maxval = B.maxval := rfl
@[simp] theorem mixBuffer_planes (B : PixelBuffer) (f g h : Int → Int → Int → Int) :
    (mixBuffer B f g h).planes = .three (mixPlane B f) (mixPlane B g) (mixPlane B h) := rfl

@[simp] theorem resizePlane_length (pr : Config.Params) (m : Filter) (B : PixelBuffer) (tw th : Nat) (p : Plane) :
    (resizePlane pr m B tw th p).length = tw * th := Plane.tabulate_length _ _
@[simp] theorem mixPlane_length (B : PixelBuffer) (f : Int → Int → Int → Int) :
    (mixPlane B f).length = B.width * B.height := Plane.tabulate_length _ _
@[simp] theorem blockyPlane_length (w h : Nat) (g : Nat → Nat → Sample) :
    (blockyPlane w h g).length = w * h := Plane.tabulate_length _ _

/-- Sample `(x, y)` of a resized plane. -/
theorem resizePlane_sample (pr : Config.Params) (m : Filter) (B : PixelBuffer) (p : Plane) {tw th x y : Nat} (hx : x < tw)
    (hy : y < th) : (resizePlane pr m B tw th p).sample (y * tw + x)
      = sampleOfInt (resizeSample pr m B tw th p x y) := by
  have hlt : y * tw + x < tw * th := by nlinarith
  rw [resizePlane, Plane.tabulate_sample _ _ hlt]
  have h1 : (y * tw + x) % tw = x := by
    rw [Nat.mul_comm, Nat.mul_add_mod, Nat.mod_eq_of_lt hx]
  have h2 : (y * tw + x) / tw = y := by
    rw [Nat.mul_comm, Nat.mul_add_div (by omega), Nat.div_eq_of_lt hx, Nat.add_zero]
  rw [h1, h2]

end Sys2Proof.Machine
end

