-- ==== Sys2Proof/Machine/Assembler.lean ====
section
/-! DEFINITION. The assembler syntax and the pseudo-instructions (`30_encoding.md` R57, R58): one line
of text to one command, and a command to its line. -/

namespace Sys2Proof.Machine

/-! ## Pseudo-instructions (R58) -/

/-- The pseudo-instructions; "there are no others". -/
inductive Pseudo where
  /-- `RESIZE Bd, Bs, tw, th`. -/
  | resize (d src : Slot) (tw th : Nat)
  /-- `DEMOSAIC Bd, Bs`. -/
  | demosaic (d src : Slot)
  /-- `UNPACK Bd, c, w, h, maxval, addr, len`. -/
  | unpack (d : Slot) (c w h maxval addr len : Nat)
  deriving DecidableEq, Repr

/-- The expansion of a pseudo-instruction, none where it is an assembly error: bicubic is the default
filter, and `UNPACK` takes the literal 1 or 3 (R58). -/
def Pseudo.expand : Pseudo → Option Instr
  | .resize d src tw th => some (.resizeBc d src tw th)
  | .demosaic d src => some (.demosaicBc d src)
  | .unpack d c w h maxval addr len =>
    if c = 1 then some (.unpack1 d w h maxval addr len)
    else if c = 3 then some (.unpack3 d w h maxval addr len)
    else none

/-! ## Words of a line -/

/-- A space or a tab. R57 does not say which characters may stand around the parts of a line
(DESIGN CHOICE, log entry 9). -/
def isBlank (c : Char) : Bool := c == ' ' || c == '\t'

/-- A word without the blanks around it. -/
def trimBlanks (w : List Char) : List Char :=
  ((w.dropWhile isBlank).reverse.dropWhile isBlank).reverse

/-- The parts of a text between its commas. -/
def splitCommas : List Char → List (List Char)
  | [] => [[]]
  | c :: cs =>
    match splitCommas cs with
    | [] => [[c]]
    | w :: ws => if c == ',' then [] :: w :: ws else (c :: w) :: ws

/-- The value of a digit of a base up to 16, capitals or not. -/
def digitValue (base : Nat) (c : Char) : Option Nat :=
  let v :=
    if '0' ≤ c ∧ c ≤ '9' then c.toNat - '0'.toNat
    else if 'a' ≤ c ∧ c ≤ 'f' then c.toNat - 'a'.toNat + 10
    else if 'A' ≤ c ∧ c ≤ 'F' then c.toNat - 'A'.toNat + 10
    else base
  if v < base then some v else none

/-- A text of digits after a value already read. -/
def digitsFrom (base acc : Nat) : List Char → Option Nat
  | [] => some acc
  | c :: cs =>
    match digitValue base c with
    | none => none
    | some v => digitsFrom base (acc * base + v) cs

/-- "A number is decimal or `0x` hexadecimal" (R57). -/
def readNumber : List Char → Option Nat
  | [] => none
  | '0' :: 'x' :: c :: cs => digitsFrom 16 0 (c :: cs)
  | c :: cs => digitsFrom 10 0 (c :: cs)

/-- "A slot is written `B0` to `B3`" (R57), that is `B` and the slot's number in decimal; a number that is
no slot of the machine is refused with the other operands that do not fit. -/
def readSlot : List Char → Option Slot
  | ['B', c] => (digitValue 10 c).map (Fin.ofNat 16)
  | ['B', '1', c] => (digitValue 6 c).map fun v => Fin.ofNat 16 (10 + v)
  | _ => none

/-- Every word of a list as a number, none if one is no number. -/
def readNumbers : List (List Char) → Option (List Nat)
  | [] => some []
  | w :: ws =>
    match readNumber w, readNumbers ws with
    | some n, some ns => some (n :: ns)
    | _, _ => none

/-! ## One line (R57) -/

/-- Why a line is no command. -/
inductive AsmError where
  /-- The mnemonic is none of R57 and R58. -/
  | unknownMnemonic
  /-- The operands are not those of the mnemonic, or one does not fit its field (R51), or `UNPACK`'s
  `c` is not 1 or 3 (R58). -/
  | badOperands
  deriving DecidableEq, Repr

/-- The command of a mnemonic and its operands, in the order of the table of R57. -/
def commandOf (nbuf : Nat) (mnemonic : List Char) (ops : List (List Char)) : Except AsmError (Option Instr) :=
  let slots1 (f : Slot → List Nat → Option Instr) : Option Instr :=
    match ops with
    | d :: rest =>
      match readSlot d, readNumbers rest with
      | some d, some ns => f d ns
      | _, _ => none
    | _ => none
  let slots2 (f : Slot → Slot → List Nat → Option Instr) : Option Instr :=
    match ops with
    | d :: src :: rest =>
      match readSlot d, readSlot src, readNumbers rest with
      | some d, some src, some ns => f d src ns
      | _, _, _ => none
    | _ => none
  let answer (r : Option Instr) : Except AsmError (Option Instr) :=
    match r with
    | some i => if i.wellFormed nbuf then .ok (some i) else .error .badOperands
    | none => .error .badOperands
  if mnemonic = "UNPACK1".toList then
    answer <| slots1 fun | d, [w, h, m, a, l] => some (.unpack1 d w h m a l) | _, _ => none
  else if mnemonic = "UNPACK3".toList then
    answer <| slots1 fun | d, [w, h, m, a, l] => some (.unpack3 d w h m a l) | _, _ => none
  else if mnemonic = "UNPACK".toList then
    answer <| slots1 fun | d, [c, w, h, m, a, l] => (Pseudo.unpack d c w h m a l).expand | _, _ => none
  else if mnemonic = "PACK".toList then
    answer <| slots1 fun | src, [a] => some (.pack src a) | _, _ => none
  else if mnemonic = "RESIZE.BC".toList then
    answer <| slots2 fun | d, src, [tw, th] => some (.resizeBc d src tw th) | _, _, _ => none
  else if mnemonic = "RESIZE.BL".toList then
    answer <| slots2 fun | d, src, [tw, th] => some (.resizeBl d src tw th) | _, _, _ => none
  else if mnemonic = "RESIZE".toList then
    answer <| slots2 fun | d, src, [tw, th] => (Pseudo.resize d src tw th).expand | _, _, _ => none
  else if mnemonic = "DEMOSAIC.BC".toList then
    answer <| slots2 fun | d, src, [] => some (.demosaicBc d src) | _, _, _ => none
  else if mnemonic = "DEMOSAIC.BL".toList then
    answer <| slots2 fun | d, src, [] => some (.demosaicBl d src) | _, _, _ => none
  else if mnemonic = "DEMOSAIC".toList then
    answer <| slots2 fun | d, src, [] => (Pseudo.demosaic d src).expand | _, _, _ => none
  else if mnemonic = "RGB2YCC".toList then
    answer <| slots2 fun | d, src, [] => some (.rgb2ycc d src) | _, _, _ => none
  else if mnemonic = "YCC2RGB".toList then
    answer <| slots2 fun | d, src, [] => some (.ycc2rgb d src) | _, _, _ => none
  else if mnemonic = "FREE".toList then
    answer <| slots1 fun | d, [] => some (.free d) | _, _ => none
  else if mnemonic = "HALT".toList then
    answer <| if ops = [] then some .halt else none
  else .error .unknownMnemonic

/-- One line of assembly: "mnemonic, then operands separated by commas", "`;` starts a comment"; a
line with nothing else on it is no command and no error (R57). -/
def assembleLine (nbuf : Nat) (line : List Char) : Except AsmError (Option Instr) :=
  let body := trimBlanks (line.takeWhile (· != ';'))
  let mnemonic := body.takeWhile (! isBlank ·)
  let rest := trimBlanks (body.dropWhile (! isBlank ·))
  if body = [] then .ok none
  else commandOf nbuf mnemonic (if rest = [] then [] else (splitCommas rest).map trimBlanks)

/-- The line a command is written as, numbers in decimal (R57). -/
def showInstr (i : Instr) : String :=
  let slot (k : Slot) := "B" ++ toString k.val
  let list (xs : List String) := i.mnemonic ++ " " ++ String.intercalate ", " xs
  match i with
  | .unpack1 d w h maxval addr len | .unpack3 d w h maxval addr len =>
    list [slot d, toString w, toString h, toString maxval, toString addr, toString len]
  | .pack src addr => list [slot src, toString addr]
  | .resizeBc d src tw th | .resizeBl d src tw th =>
    list [slot d, slot src, toString tw, toString th]
  | .demosaicBc d src | .demosaicBl d src | .rgb2ycc d src | .ycc2rgb d src =>
    list [slot d, slot src]
  | .free d => list [slot d]
  | .halt => i.mnemonic

end Sys2Proof.Machine
end

