-- ==== Sys2Proof/Machine/RasterHeader.lean ====
section
/-! DEFINITION. The host's duties about a raster file's header (`41_raster_pack_unpack.md` R84 to R87).
They "bind the host, not the engine", and the scope file leaves them outside PRB; they are here
because "a host model needs them". No step of the machine uses this file. -/

namespace Sys2Proof.Machine

/-- What a header says (R84, R85). -/
structure Header where
  format : Format
  width  : Nat
  height : Nat
  maxval : Nat
  deriving DecidableEq, Repr

/-- Why the HOST raises the document's FormatError before any command is issued (R84, R86). -/
inductive HeaderError where
  /-- "magic token does not match the expected variant". -/
  | badMagic
  /-- "the byte after comment-skipping is not a header digit". -/
  | notDigit
  /-- A `maxval` above 65535, which the 16-bit field cannot carry (R86, D15). -/
  | maxvalTooLarge
  deriving DecidableEq, Repr

/-- The whitespace bytes between the header's numbers: space, tab, line feed, vertical tab, form feed,
carriage return. PRESUMED, of the netpbm family (log entry 10): N10 leaves the set open. -/
def isSpaceByte (b : Byte) : Bool := b ∈ [0x20#8, 0x09#8, 0x0A#8, 0x0B#8, 0x0C#8, 0x0D#8]

/-- A decimal digit, `0` to `9`. -/
def isDigitByte (b : Byte) : Bool := decide (0x30 ≤ b.toNat ∧ b.toNat ≤ 0x39)

/-- Skip whitespace and `#` comments, each of which "consumes to end-of-line" (R85). That the end of a
line is a line feed, and that a `#` need not begin one, is DESIGN CHOICE (log entry 10). -/
def skipComments (inComment : Bool) : List Byte → List Byte
  | [] => []
  | b :: bs =>
    if inComment then skipComments (b != 0x0A#8) bs
    else if b == 0x23#8 then skipComments true bs
    else if isSpaceByte b then skipComments false bs
    else b :: bs

/-- A decimal number after a value already read, and the bytes after its last digit. -/
def digitsOf (acc : Nat) : List Byte → Nat × List Byte
  | [] => (acc, [])
  | b :: bs => if isDigitByte b then digitsOf (acc * 10 + (b.toNat - 0x30)) bs else (acc, b :: bs)

/-- One number of the header, with the whitespace before it. R85 and N10 leave open "whether more than
one" whitespace byte may stand between the numbers: any number of them is skipped (DESIGN CHOICE, log
entry 10). -/
def headerNumber (bs : List Byte) : Except HeaderError (Nat × List Byte) :=
  match bs.dropWhile isSpaceByte with
  | [] => .error .notDigit
  | b :: rest => if isDigitByte b then .ok (digitsOf 0 (b :: rest)) else .error .notDigit

/-- The magic token: `P6` three-plane (the document's, R84), `P5` single-plane (general knowledge,
G1). -/
def headerMagic : List Byte → Except HeaderError (Format × List Byte)
  | 0x50#8 :: 0x36#8 :: rest => .ok (.three, rest)
  | 0x50#8 :: 0x35#8 :: rest => .ok (.single, rest)
  | _ => .error .badMagic

/-- The header of a file, and the payload bytes after it: magic, comments, the three numbers, and the
one byte that ends the header (R85). Two points R85, N10 and C4 leave open are settled here (log entry
10): no whitespace need follow the magic token, so `P64 4 255` reads as width 4 (DESIGN CHOICE); and
exactly one byte after `maxval` is dropped, whatever it is (PRESUMED, of the netpbm family). -/
def parseHeader (bs : List Byte) : Except HeaderError (Header × List Byte) := do
  let (format, bs) ← headerMagic bs
  let (width, bs) ← headerNumber (skipComments false bs)
  let (height, bs) ← headerNumber bs
  let (maxval, bs) ← headerNumber bs
  if Config.maxvalMax < maxval then .error .maxvalTooLarge
  else .ok ({ format := format, width := width, height := height, maxval := maxval }, bs.drop 1)

/-- The `UNPACK` the host issues for a header, with the payload at `addr` and `len` "the number of
bytes that remain in the file after the header" (R84, R85). R86 names an error only for a
`maxval` that its 16-bit field cannot carry: a width or height above 65535 is passed on here too, and
the command is then not `WellFormed`, so that it has no word (DESIGN CHOICE, log entry 10). -/
def Header.unpack (hd : Header) (d : Slot) (addr len : Nat) : Instr :=
  match hd.format with
  | .single => .unpack1 d hd.width hd.height hd.maxval addr len
  | .three => .unpack3 d hd.width hd.height hd.maxval addr len

/-- A number in decimal. -/
def decimalBytes (n : Nat) : List Byte := (Nat.toDigits 10 n).map fun c => BitVec.ofNat 8 c.toNat

/-- The header the host writes before a packed payload (R87), in the form of the document's example
`"P6\n4 4\n255\n"` (C4, log entry 10). -/
def Header.bytes (hd : Header) : List Byte :=
  (match hd.format with | .single => [0x50#8, 0x35#8] | .three => [0x50#8, 0x36#8]) ++ [0x0A#8] ++
  decimalBytes hd.width ++ [0x20#8] ++ decimalBytes hd.height ++ [0x0A#8] ++
  decimalBytes hd.maxval ++ [0x0A#8]

/-- What the host learns of a packed slot from `BSTAT_k`, `BDIM_k` and `BMAX_k` (R87, R19). -/
def State.headerOfSlot (s : State) (k : Slot) : Option Header :=
  let reg (n : Nat) : Word := s.register (BitVec.ofNat 8 (0x10 + 4 * k.val + n))
  let bstat := reg 0
  if bstat[0] then
    some { format := if (bstat.extractLsb' 1 2).toNat = 1 then .single else .three
           width := ((reg 1).extractLsb' 0 15).toNat
           height := ((reg 1).extractLsb' 16 15).toNat
           maxval := ((reg 2).extractLsb' 0 16).toNat }
  else none

/-- The length of the payload that follows the header (R87). -/
def Header.payloadLength (hd : Header) : Nat :=
  Machine.payloadLength hd.width hd.height hd.format.channels hd.maxval

end Sys2Proof.Machine
end

