-- ==== Sys2Proof/Tests/Slice0.lean ====
section
/-! SUPPORT. The model's own tests. Every expected result is a line of `95_test_vectors.md` or of a
worked example of the rule named. -/

namespace Sys2Proof.Tests

-- One thread for the tests: each `decide +kernel` waits for the one before it.
set_option Elab.async false

open Sys2Proof Sys2Proof.Machine

/-! ## Helpers -/

/-- A command from its four words as the spec prints them. -/
def words (W0 W1 W2 W3 : Nat) : Command :=
  commandOfWords (BitVec.ofNat 32 W0) (BitVec.ofNat 32 W1) (BitVec.ofNat 32 W2) (BitVec.ofNat 32 W3)

/-- The outcome is a next state that passes a check. -/
def nextIs (r : Result) (p : State → Bool) : Bool :=
  match r with
  | .next t => p t
  | .fault _ => false
  | .refused _ => false

theorem exists_next {r : Result} {p : State → Bool} (h : nextIs r p = true) :
    ∃ t, r = .next t ∧ p t = true := by
  cases r with
  | next t => exact ⟨t, rfl, h⟩
  | fault f => simp [nextIs] at h
  | refused f => simp [nextIs] at h

def plane (xs : List Nat) : Plane := xs.map (BitVec.ofNat 16)

def grey (w h m : Nat) (xs : List Nat) : PixelBuffer :=
  { width := w, height := h, maxval := m, planes := .one (plane xs) }

def color (w h m : Nat) (xs ys zs : List Nat) : PixelBuffer :=
  { width := w, height := h, maxval := m, planes := .three (plane xs) (plane ys) (plane zs) }

/-- After a power-on reset with the parameters of the vectors, and a START. -/
def running : State := (State.powerOn Config.Params.vectors).start

/-- With one slot full. -/
def withBuffer (k : Slot) (B : PixelBuffer) : State := running.setSlot k (.full B)

/-- With bytes in the byte memory. -/
def withBytes (a : Nat) (bs : List Nat) : State := running.memWrite a (bs.map (BitVec.ofNat 8))

/-- The command completed, `pc` advanced, and slot `k` holds `B`. -/
def delivers (r : Result) (k : Slot) (B : PixelBuffer) : Bool :=
  nextIs r fun t => t.slot k == .full B && t.status == .running && t.pc == 1

/-- The command raised the fault with this code and sub-code at index 0. -/
def faults (r : Result) (code : BitVec 4) (info : BitVec 8) : Bool :=
  nextIs r fun t => t.status == .faulted && t.err == code && t.errInfo == info && t.pc == 0

/-! ## Well-formedness: an ill-formed term for each check -/

theorem test_wellFormed_refuses_wide_operands :
    (Instr.unpack1 0 65536 1 255 0 1).wellFormed 4 = false ∧
    (Instr.unpack1 0 1 65536 255 0 1).wellFormed 4 = false ∧
    (Instr.unpack1 0 1 1 65536 0 1).wellFormed 4 = false ∧
    (Instr.unpack3 0 1 1 255 (2 ^ 32) 3).wellFormed 4 = false ∧
    (Instr.unpack3 0 1 1 255 0 (2 ^ 32)).wellFormed 4 = false ∧
    (Instr.pack 0 (2 ^ 32)).wellFormed 4 = false ∧
    (Instr.resizeBc 1 0 65536 1).wellFormed 4 = false ∧
    (Instr.resizeBl 1 0 1 65536).wellFormed 4 = false := by decide

/-- A slot at or above `NBUF`, as a destination and as a source. -/
theorem test_wellFormed_refuses_missing_slots :
    (Instr.free 4).wellFormed 4 = false ∧ (Instr.pack 15 0).wellFormed 4 = false ∧
    (Instr.rgb2ycc 0 5).wellFormed 5 = false ∧ (Instr.rgb2ycc 5 0).wellFormed 8 = true := by decide

theorem test_wellFormed_accepts_illegal_dimensions :
    (Instr.unpack1 0 0 40000 0 0 0).wellFormed 4 = true ∧
    (Instr.resizeBl 3 3 0 32768).wellFormed 4 = true := by decide

/-! ## Decoding: the words of `95_test_vectors.md` section 2 -/

theorem test_decode_unpack :
    decode 4 (words 0x010300FF 0x00040004 0x00000100 0x00000030) = .ok (.unpack3 0 4 4 255 0x100 48) ∧
    decode 4 (words 0x010103FF 0x00020004 0x00000040 0x00000010) = .ok (.unpack1 0 4 2 1023 0x40 16) ∧
    decode 4 (words 0x0121FFFF 0x00017FFF 0x00010000 0x0000FFFE)
      = .ok (.unpack1 2 32767 1 65535 0x10000 65534) := by decide +kernel

theorem test_decode_pack :
    decode 4 (words 0x02020000 0 0x00000200 0) = .ok (.pack 2 0x200) ∧
    decode 4 (words 0x02030000 0 0xFFFFFFFF 0) = .ok (.pack 3 0xFFFFFFFF) := by decide +kernel

theorem test_decode_resize :
    decode 4 (words 0x03310000 0x00040004 0 0) = .ok (.resizeBc 3 1 4 4) ∧
    decode 4 (words 0x03210001 0x01E00280 0 0) = .ok (.resizeBl 2 1 640 480) := by decide +kernel

theorem test_decode_demosaic :
    decode 4 (words 0x04100000 0 0 0) = .ok (.demosaicBc 1 0) ∧
    decode 4 (words 0x04300001 0 0 0) = .ok (.demosaicBl 3 0) := by decide +kernel

theorem test_decode_color :
    decode 4 (words 0x05100000 0 0 0) = .ok (.rgb2ycc 1 0) ∧
    decode 4 (words 0x06210000 0 0 0) = .ok (.ycc2rgb 2 1) := by decide +kernel

theorem test_decode_control :
    decode 4 (words 0x07300000 0 0 0) = .ok (.free 3) ∧
    decode 4 (words 0x08000000 0 0 0) = .ok .halt := by decide +kernel

theorem test_decode_illegal_opcode_slot_channels :
    decode 4 (words 0x00000000 0 0 0) = .error .opcode ∧
    decode 4 (words 0xFF123456 0 0 0) = .error .opcode ∧
    decode 4 (words 0x07400000 0 0 0) = .error .slot ∧
    decode 4 (words 0x02040000 0 0 0) = .error .slot ∧
    decode 4 (words 0x01C20000 0x00010001 0 1) = .error .slot ∧
    decode 4 (words 0x01020000 0x00010001 0 1) = .error .channels := by decide +kernel

theorem test_decode_illegal_reserved :
    decode 4 (words 0x02100000 0 0 0) = .error .reserved ∧
    decode 4 (words 0x03210002 0x00010001 0 0) = .error .reserved ∧
    decode 4 (words 0x03210001 0x00010001 1 0) = .error .reserved ∧
    decode 4 (words 0x04100000 1 0 0) = .error .reserved ∧
    decode 4 (words 0x07080000 0 0 0) = .error .reserved ∧
    decode 4 (words 0x08000000 0 0 1) = .error .reserved := by decide +kernel

/-- `NBUF` is an argument (R3): slot 7 of a machine of eight slots, and slot 8, which it has not. -/
theorem test_decode_more_slots :
    decode 8 (words 0x03710000 0x00040004 0 0) = .ok (.resizeBc 7 1 4 4) ∧
    decode 8 (words 0x07800000 0 0 0) = .error .slot ∧
    decode 8 (words 0x07710000 0 0 0) = .error .reserved := by decide +kernel

theorem test_encode_words :
    encode (.resizeBl 2 1 640 480) = words 0x03210001 0x01E00280 0 0 ∧
    encode (.unpack1 0 4 2 1023 0x40 16) = words 0x010103FF 0x00020004 0x40 0x10 := by decide +kernel

/-- "the rows are disjoint" (R53): two rows' patterns differ in a bit both masks look at. -/
theorem test_rows_disjoint :
    Row.all.Pairwise fun a b => a.pattern &&& (a.mask &&& b.mask) ≠ b.pattern &&& (a.mask &&& b.mask) := by
  decide +kernel

theorem test_decodeTableWord_first_row :
    decodeTableWord 128 0x01010000000000000000000000000000 = some (.unpack1 0 0 0 0 0 0) := by
  decide +kernel

/-! ## UNPACK and PACK: vectors U2, U3, U22, U19, K1, K3 -/

theorem test_unpack1_two_byte_samples :
    delivers (exec (.unpack1 0 4 2 1023 0x40 16)
        (withBytes 0x40 [0x03, 0xE8, 0x00, 0xC8, 0x01, 0x2C, 0x01, 0x90,
                         0x01, 0xF4, 0x02, 0x58, 0x02, 0xBC, 0x03, 0xFF]))
      0 (grey 4 2 1023 [1000, 200, 300, 400, 500, 600, 700, 1023]) = true := by decide +kernel

theorem test_unpack1_sample_above_maxval :
    faults (exec (.unpack1 0 2 1 100 0 2) (withBytes 0 [0x64, 0x65])) 1 3 = true := by decide +kernel

theorem test_unpack3_interleaved :
    delivers (exec (.unpack3 1 2 1 65535 0 12)
        (withBytes 0 [0x01, 0x02, 0x03, 0x04, 0xFF, 0xFF, 0x00, 0x00, 0x00, 0x01, 0x80, 0x00]))
      1 (color 2 1 65535 [258, 0] [772, 1] [65535, 32768]) = true := by decide +kernel

theorem test_unpack3_leaves_memory :
    faults (exec (.unpack3 0 4 4 255 0x3D1 48) running) 4 0 = true := by decide +kernel

/-- Vector U21: "`IOError(0)` for every `MEMBYTES`", with no wrap-around at 2^32. -/
theorem test_unpack1_no_wrap (s : State) (h : 2 ≤ s.params.slotCap) :
    exec (.unpack1 0 2 1 255 0xFFFFFFFF 2) s = .next (s.raise .ioError 0) := by
  have hm := s.params.memBytes_le
  have hn : payloadLength 2 1 1 255 = 2 := by decide
  have h4 : ¬ s.params.slotCap < 2 := by omega
  have h6 : ¬ 0xFFFFFFFF + 2 ≤ s.params.memBytes := by omega
  show unpack 0 .single 2 1 255 0xFFFFFFFF 2 s = _
  simp [unpack, Format.channels, hn, h4, h6, Config.dimMax, trap]

theorem test_pack_one_byte_samples :
    nextIs (exec (.pack 0 0x10) (withBuffer 0 (color 2 2 255 [1, 2, 3, 4] [11, 12, 13, 14] [21, 22, 23, 24])))
      (fun t => (t.memRead 0x10 12).map BitVec.toNat
        == [0x01, 0x0B, 0x15, 0x02, 0x0C, 0x16, 0x03, 0x0D, 0x17, 0x04, 0x0E, 0x18]) = true := by
  decide +kernel

theorem test_pack_two_byte_samples :
    nextIs (exec (.pack 1 4) (withBuffer 1 (grey 2 1 256 [5, 256])))
      (fun t => (t.memRead 4 4).map BitVec.toNat == [0x00, 0x05, 0x01, 0x00]) = true := by
  decide +kernel

/-! ## The samplers and RESIZE: section 5 and vectors Z2, Z6, Z8 -/

theorem test_cubic_kernel :
    cubic .exact 10 20 40 80 (1 / 4) = 1525 / 64 ∧ cubic .exact 0 255 255 0 (1 / 2) = 2295 / 8 := by decide +kernel

theorem test_sampleBicubic_tie_and_clamp :
    sampleBicubic .vectors (plane [10, 20, 40, 80, 160]) 4 (1 / 2) 5 1 255 = 123 ∧
    sampleBicubic .vectors (plane [255, 0, 0, 0]) 2 (1 / 2) 4 1 255 = 0 := by decide +kernel

theorem test_sampleBilinear_tie : sampleBilinear .vectors 10 20 30 40 (3 / 4) (5 / 4) = 28 := by decide +kernel

/-- The tie of R95(e), 82.5, by the tie rules R6 names: only half to even gives another sample. -/
theorem test_rounding_of_a_tie :
    (roundTo .floorHalf (165 / 2) = 83 ∧ roundTo .halfAway (165 / 2) = 83) ∧
    (roundTo .truncHalf (165 / 2) = 83 ∧ roundTo .halfEven (165 / 2) = 82) ∧
    (roundTo .halfEven (167 / 2) = 84 ∧ roundTo .floorHalf (-1 / 2) = 0) ∧
    (roundTo .halfAway (-1 / 2) = -1 ∧ roundTo .truncHalf (-5 / 2) = -2) := by decide +kernel

theorem test_resizeBc_shrink :
    delivers (exec (.resizeBc 3 1 3 2) (withBuffer 1 (grey 4 4 255 ((List.range 16).map (10 * ·)))))
      3 (grey 3 2 255 [19, 33, 46, 104, 118, 131]) = true := by decide +kernel

theorem test_resizeBc_clamps_to_maxval :
    delivers (exec (.resizeBc 3 1 2 1) (withBuffer 1 (color 2 1 100 [100, 50] [128, 128] [128, 120])))
      3 (color 2 1 100 [100, 50] [100, 100] [100, 100]) = true := by decide +kernel

theorem test_resizeBl_grow :
    delivers (exec (.resizeBl 3 1 6 1) (withBuffer 1 (grey 3 1 255 [0, 90, 30])))
      3 (grey 6 1 255 [0, 23, 68, 75, 45, 30]) = true := by decide +kernel

theorem test_resizeBl_too_large :
    faults (exec (.resizeBl 3 1 13 5) (withBuffer 1 (grey 2 2 255 [0, 100, 200, 60]))) 3 0 = true := by
  decide +kernel

/-! ## DEMOSAIC: vectors E4, E2 -/

theorem test_demosaicBc_green_diagonals :
    delivers (exec (.demosaicBc 1 0) (withBuffer 0 (grey 2 2 255 [9, 7, 3, 1])))
      1 (color 2 2 255 [9, 9, 9, 9] [7, 3, 3, 7] [1, 1, 1, 1]) = true := by decide +kernel

theorem test_demosaicBl_odd_size :
    delivers (exec (.demosaicBl 1 0) (withBuffer 0 (grey 3 3 255 [1, 2, 3, 4, 5, 6, 7, 8, 9])))
      1 (color 3 3 255 [1, 1, 0, 1, 1, 0, 0, 0, 0] [2, 4, 0, 4, 2, 0, 0, 0, 0]
        [5, 5, 0, 5, 5, 0, 0, 0, 0]) = true := by decide +kernel

/-! ## RGB2YCC and YCC2RGB: tables M1, M2, M3 -/

theorem test_rgb2ycc_floor_shift :
    delivers (exec (.rgb2ycc 1 0) (withBuffer 0 (color 2 1 255 [255, 12] [0, 200] [0, 99])))
      1 (color 2 1 255 [76, 132] [85, 109] [255, 42]) = true := by decide +kernel

/-- R139: under a shift that truncates, (0, 36, 7) goes to (21, 121, 114) and comes back (1, 33, 9). -/
theorem test_rgb2ycc_truncating_shift :
    rgbY .truncate 0 36 7 = 21 ∧ rgbCb .truncate 0 36 7 = 121 ∧ rgbCr .truncate 0 36 7 = 114 ∧
    yccR .truncate 21 121 114 = 1 ∧ yccG .truncate 21 121 114 = 33 ∧ yccB .truncate 21 121 114 = 9 := by
  decide +kernel

theorem test_rgb2ycc_sixteen_bit :
    delivers (exec (.rgb2ycc 1 0) (withBuffer 0 (color 2 1 65535 [1000, 0] [0, 0] [0, 1000])))
      1 (color 2 1 65535 [255, 113] [0, 255] [255, 47]) = true := by decide +kernel

theorem test_ycc2rgb_clips :
    delivers (exec (.ycc2rgb 1 0) (withBuffer 0 (color 2 1 255 [149, 235] [43, 16] [21, 240])))
      1 (color 2 1 255 [0, 255] [255, 194] [0, 37]) = true := by decide +kernel

theorem test_ycc2rgb_one_plane :
    faults (exec (.ycc2rgb 1 0) (withBuffer 0 (grey 1 1 255 [7]))) 7 0 = true := by decide +kernel

/-! ## FREE, HALT, the step and the registers: vectors Q2, Q5, Q11, Q7 -/

theorem test_free_then_bstat :
    nextIs (exec (.free 0) (withBuffer 0 (grey 1 1 255 [7])))
      (fun t => t.slot 0 == .empty && t.register 0x10 == 0 && t.pc == 1) = true := by decide +kernel

theorem test_halt_keeps_pc :
    nextIs (step (running.writeCommand 0 (words 0x08000000 0 0 0)))
      (fun t => t.status == .halted && t.pc == 0 && t.err == 0) = true := by decide +kernel

theorem test_step_zero_command_is_illegal :
    faults (step (running.writeCommand 0 0)) 5 1 = true := by decide +kernel

theorem test_descriptor_registers :
    let s := withBuffer 0 (grey 4 2 1023 [1000, 200, 300, 400, 500, 600, 700, 1023])
    s.register 0x10 = 0x3 ∧ s.register 0x11 = 0x00020004 ∧ s.register 0x12 = 0x3FF := by decide +kernel

theorem test_ctrl_start_ignored_and_reset_in_faulted :
    let s := running.raise .illegalCommand 1
    (s.writeCtrl 1).status = .faulted ∧ (s.writeCtrl 3).status = .idle ∧ (s.writeCtrl 2).err = 0 := by
  decide +kernel

theorem test_withFetchWord_is_fetched :
    nextIs (step (State.reset.withFetchWord 128 0x07000000000000000000000000000000))
      (fun t => t.status == .running && t.pc == 1) = true := by decide +kernel

/-! ## Assembler and header: section 2 and scenario S1 -/

theorem test_assemble_pseudo :
    assembleLine 4 "RESIZE B3, B1, 4, 4 ; default filter".toList = .ok (some (.resizeBc 3 1 4 4)) := by
  decide +kernel

theorem test_header_bytes :
    (Header.bytes { format := .three, width := 4, height := 4, maxval := 255 }).map BitVec.toNat
      = [0x50, 0x36, 0x0A, 0x34, 0x20, 0x34, 0x0A, 0x32, 0x35, 0x35, 0x0A] := by decide +kernel

theorem test_parse_header :
    parseHeader [0x50, 0x36, 0x0A, 0x34, 0x20, 0x34, 0x0A, 0x32, 0x35, 0x35, 0x0A, 0x07]
      = .ok ({ format := .three, width := 4, height := 4, maxval := 255 }, [0x07]) := by decide +kernel

/-- The choices of log entry 10: no whitespace after the magic token, several bytes of it between the
numbers, and a width its field cannot carry, for which there is no word. -/
theorem test_parse_header_choices :
    parseHeader [0x50, 0x36, 0x34, 0x20, 0x20, 0x0A, 0x34, 0x0A, 0x39, 0x0A]
      = .ok ({ format := .three, width := 4, height := 4, maxval := 9 }, []) ∧
    ((Header.mk .three 65536 1 255).unpack 0 0 3).wellFormed 4 = false := by decide +kernel

end Sys2Proof.Tests
end

