-- ==== Sys2Proof/Tests/Witnesses.lean ====
section
/-! SUPPORT. One witness for every statement with hypotheses: a concrete state and operands that meet
all of them together, and, where a statement has several clauses, each clause at a boundary value. -/

namespace Sys2Proof.Tests

-- One thread for the tests: each `decide +kernel` waits for the one before it.
set_option Elab.async false

open Sys2Proof Sys2Proof.Machine

/-! ## A state that meets the invariants, with something in every kind of storage -/

def greyB : PixelBuffer := grey 2 2 255 [10, 20, 30, 255]
def colorB : PixelBuffer := color 2 1 65535 [258, 0] [772, 1] [65535, 32768]
def byteB : PixelBuffer := color 2 1 255 [255, 0] [0, 6] [0, 39]

/-- RUNNING at entry 0 with `cmd[0] = FREE B0`, bytes 7, 9 at 16, and slots 0 to 2 full. -/
def W : State :=
  ((((running.setSlot 0 (.full greyB)).setSlot 1 (.full colorB)).setSlot 2 (.full byteB)).memWrite 16
    [7, 9]).writeCommand 0 (words 0x07000000 0 0 0)

/-- `W` with another command at entry 0. -/
def Wcmd (C : Command) : State := W.writeCommand 0 C

/-- `W`, but stopped by a fault or a halt, or not started. -/
def Wstatus (e : EngineState) : State := { W with status := e }

theorem legal_greyB : greyB.Legal 64 := by decide +kernel
theorem legal_colorB : colorB.Legal 64 := by decide +kernel
theorem legal_byteB : byteB.Legal 64 := by decide +kernel

theorem W_slots : W.slot 0 = .full greyB ∧ W.slot 1 = .full colorB ∧ W.slot 2 = .full byteB ∧
    W.slot 3 = .empty := by decide +kernel

/-- What every slot of `W` holds. -/
theorem W_slot_cases : ∀ k : Slot, (k = 0 ∧ W.slot k = .full greyB) ∨ (k = 1 ∧ W.slot k = .full colorB) ∨
    (k = 2 ∧ W.slot k = .full byteB) ∨ W.slot k = .empty := by decide +kernel

theorem W_params : W.params = .vectors ∧ W.params.DecidedReals ∧ W.params.shift = .floor := by
  decide +kernel

theorem W_inv : W.Inv := by
  refine ⟨fun k => ?_, by decide +kernel, by decide +kernel⟩
  rcases W_slot_cases k with ⟨rfl, h⟩ | ⟨rfl, h⟩ | ⟨rfl, h⟩ | h <;> rw [h, W_params.1]
  · exact ⟨legal_greyB, by decide⟩
  · exact ⟨legal_colorB, by decide⟩
  · exact ⟨legal_byteB, by decide⟩
  · exact ⟨trivial, fun _ => rfl⟩

theorem W_onePlaneInRange : W.OnePlaneInRange := by
  intro k B hB hc
  have hg : greyB.InRange := by decide +kernel
  rcases W_slot_cases k with ⟨rfl, h⟩ | ⟨rfl, h⟩ | ⟨rfl, h⟩ | h <;> rw [h] at hB <;> cases hB
  · exact hg
  · exact absurd hc (by decide)
  · exact absurd hc (by decide)

/-! ## Encoding -/

theorem witness_DecodeOfEncodeIsIdentity :
    (Instr.unpack3 3 65535 65535 65535 (2 ^ 32 - 1) (2 ^ 32 - 1)).WellFormed 4 ∧
    (Instr.pack 3 (2 ^ 32 - 1)).WellFormed 4 ∧ (Instr.resizeBl 3 2 65535 65535).WellFormed 4 ∧
    (Instr.resizeBl 15 0 65535 65535).WellFormed 16 := by decide

theorem witness_EncodeOfDecodeIsIdentity :
    decode 4 (words 0x0131FFFF 0xFFFFFFFF 0xFFFFFFFF 0xFFFFFFFF)
      = .ok (.unpack1 3 65535 65535 65535 (2 ^ 32 - 1) (2 ^ 32 - 1)) := by decide +kernel

theorem witness_LegalCommandMatchesOneRow :
    Row.resizeBl.matches (words 0x03210001 0x01E00280 0 0) ∧
    decode 4 (words 0x03210001 0x01E00280 0 0) = .ok (.resizeBl 2 1 640 480) := by decide +kernel

theorem witness_IllegalCommandSubcodes :
    let f (C : Command) := fieldsOf ((Wcmd C).readCommand (Wcmd C).pc.toNat)
    ((Wcmd 0).status = .running ∧ (Wcmd 0).pc.toNat < (Wcmd 0).params.ncmd) ∧
    (f (words 0x00000000 0 0 0)).op = 0 ∧ 8 < (f (words 0x09000000 0 0 0)).op ∧
    (f (words 0x07400000 0 0 0)).slotTooLarge 4 ∧
    (let g := f (words 0x01020000 0 0 0); ¬ g.slotTooLarge 4 ∧ g.op = 1 ∧ g.s ≠ 1 ∧ g.s ≠ 3) ∧
    (let g := f (words 0x08000000 0 0 1); ¬ g.slotTooLarge 4 ∧ g.op = 8 ∧ g.reservedZero = false) ∧
    (let g := f (words 0x08000000 0 0 0); ¬ g.slotTooLarge 4 ∧ g.op = 8 ∧ g.reservedZero = true) := by
  decide +kernel

/-! ## The step and the run -/

theorem witness_StepRunsDecodedCommand :
    W.status = .running ∧ W.pc.toNat < W.params.ncmd ∧ decode 4 (W.readCommand W.pc.toNat) = .ok (.free 0) := by
  decide +kernel

theorem witness_FetchPastStoreFaults :
    let s := { W with pc := 256 }
    s.status = .running ∧ s.params.ncmd ≤ s.pc.toNat ∧ s.pc.toNat = s.params.ncmd ∧
    nextIs (step s) (fun _ => true) = true := by decide +kernel

theorem witness_EngineStepsOnlyWhenRunning :
    State.reset.status ≠ .running ∧ (Wstatus .halted).status ≠ .running := by decide +kernel

theorem witness_StepEndsRunOrAdvancesPc : W.status = .running := by decide +kernel

theorem witness_RunEndsWithinStoreLength : ({ W with pc := 255 } : State).status = .running := by
  decide +kernel

theorem witness_RunIsStraightLine :
    ∃ t, runSteps 1 W = .next t ∧ W.status = .running ∧ t.status = .running := by
  obtain ⟨t, h, ht⟩ := exists_next (r := runSteps 1 W) (p := fun t => t.status == .running)
    (by decide +kernel)
  exact ⟨t, h, by decide +kernel, by simpa using ht⟩

/-! ## Invariants -/

theorem witness_StepKeepsInvariant : ∃ t, W.params.DecidedReals ∧ W.Inv ∧ step W = .next t := by
  obtain ⟨t, h, -⟩ := exists_next (r := step W) (p := fun _ => true) (by decide +kernel)
  exact ⟨t, W_params.2.1, W_inv, h⟩

theorem witness_HostMovesKeepInvariant :
    ∃ t, W.Inv ∧ hostMove (.writeReg 0 2) W = .next t ∧ t.status = .idle := by
  obtain ⟨t, h, ht⟩ := exists_next (r := hostMove (.writeReg 0 2) W)
    (p := fun t => t.status == .idle) (by decide +kernel)
  exact ⟨t, W_inv, h, by simpa using ht⟩

theorem witness_OnePlaneBuffersStayInRange :
    ∃ t, W.params.DecidedReals ∧ W.OnePlaneInRange ∧ step W = .next t := by
  obtain ⟨t, h, -⟩ := exists_next (r := step W) (p := fun _ => true) (by decide +kernel)
  exact ⟨t, W_params.2.1, W_onePlaneInRange, h⟩

/-- Each of the three clauses: commands that clamp or check, one with an in-range source, a colour
command. -/
theorem witness_CommandsKeepSamplesInRange :
    ∀ i ∈ [Instr.unpack1 3 2 1 255 16 2, .resizeBc 3 0 3 1, .demosaicBc 3 0, .resizeBl 3 0 3 1,
           .demosaicBl 3 0, .ycc2rgb 3 2],
      i.WellFormed 4 ∧ W.Inv ∧ W.status ≠ .faulted ∧ i.slotWritten = some 3 ∧
      W.params.DecidedReals ∧ greyB.InRange ∧
      ∃ t B', exec i W = .next t ∧ t.status ≠ .faulted ∧ t.slot 3 = .full B' := by
  intro i hi
  have hc : ∀ i ∈ [Instr.unpack1 3 2 1 255 16 2, .resizeBc 3 0 3 1, .demosaicBc 3 0,
      .resizeBl 3 0 3 1, .demosaicBl 3 0, .ycc2rgb 3 2], i.WellFormed 4 ∧ W.status ≠ .faulted ∧ i.slotWritten = some 3 ∧
      nextIs (exec i W) (fun t => t.status == .running && t.slot 3 != .empty) = true := by
    decide +kernel
  obtain ⟨h1, h2, h3, h4⟩ := hc i hi
  obtain ⟨t, h, ht⟩ := exists_next h4
  simp only [Bool.and_eq_true, beq_iff_eq, bne_iff_ne] at ht
  refine ⟨h1, W_inv, h2, h3, W_params.2.1, by decide +kernel, t, ?_⟩
  cases hs : t.slot 3 with
  | empty => exact absurd hs ht.2
  | full B' => exact ⟨B', h, by rw [ht.1]; decide, rfl⟩

/-! ## Faults -/

theorem witness_FaultsArePrecise :
    (∃ t, exec (.pack 3 0) W = .next t ∧ W.status ≠ .faulted ∧ t.status = .faulted) ∧
    (∃ t, step (Wcmd 0) = .next t ∧ (Wcmd 0).status ≠ .faulted ∧ t.status = .faulted) := by
  obtain ⟨t, h, ht⟩ := exists_next (r := exec (.pack 3 0) W) (p := fun t => t.status == .faulted)
    (by decide +kernel)
  obtain ⟨u, g, gu⟩ := exists_next (r := step (Wcmd 0)) (p := fun t => t.status == .faulted)
    (by decide +kernel)
  exact ⟨⟨t, h, by decide +kernel, by simpa using ht⟩, ⟨u, g, by decide +kernel, by simpa using gu⟩⟩

theorem witness_ErrorRegistersWrittenOnlyByFault :
    (∃ t, exec (.free 1) W = .next t ∧ t.status ≠ .faulted) ∧
    (∃ t, step W = .next t ∧ t.status ≠ .faulted) := by
  obtain ⟨t, h, ht⟩ := exists_next (r := exec (.free 1) W) (p := fun t => t.status != .faulted)
    (by decide +kernel)
  obtain ⟨u, g, gu⟩ := exists_next (r := step W) (p := fun t => t.status != .faulted)
    (by decide +kernel)
  exact ⟨⟨t, h, by simpa using ht⟩, ⟨u, g, by simpa using gu⟩⟩

theorem witness_CommandsRaiseOnlyTheirCauses :
    ∃ t, exec (.demosaicBc 3 1) W = .next t ∧ W.status ≠ .faulted ∧ t.status = .faulted := by
  obtain ⟨t, h, ht⟩ := exists_next (r := exec (.demosaicBc 3 1) W)
    (p := fun t => t.status == .faulted) (by decide +kernel)
  exact ⟨t, h, by decide +kernel, by simpa using ht⟩

theorem witness_SlotConflictIsTestedFirst :
    (Instr.resizeBc 3 3 0 0).slotPair = some (3, 3) ∧ (Instr.ycc2rgb 1 1).slotPair = some (1, 1) := by
  decide

theorem witness_EmptySourceRaisesEmptySlot :
    W.slot 3 = .empty ∧ (Instr.resizeBl 0 3 0 0).slotPair = some (0, 3) ∧ (0 : Slot) ≠ 3 := by
  decide +kernel

theorem witness_WrongPlaneCountRaisesPlaneCountError :
    (3 : Slot) ≠ 1 ∧ W.slot 1 = .full colorB ∧ colorB.planes.count = 3 ∧
    (3 : Slot) ≠ 0 ∧ W.slot 0 = .full greyB ∧ greyB.planes.count = 1 ∧
    W.err ≠ 7 ∧ nextIs (exec (.pack 1 0) W) (fun t => t.err == 0) = true ∧
    nextIs (exec (.resizeBc 3 1 1 1) W) (fun t => t.err == 0) = true ∧
    nextIs (exec (.resizeBl 3 1 1 1) W) (fun t => t.err == 0) = true := by decide +kernel

/-- The clause about the word, at the last slot that exists. -/
theorem witness_FreeEmptiesSlot : (3 : Slot).val < W.params.nbuf := by decide +kernel

/-- The clause about a run that ends well. -/
theorem witness_HaltStopsTheEngine :
    W.status = .running ∧ exec .halt W = .next { W with status := .halted } := by
  exact ⟨by decide +kernel, rfl⟩

/-- Both clauses: a START, which is ignored, and a RESET. -/
theorem witness_FaultIsSticky :
    (Wstatus .faulted).status = .faulted ∧
    nextIs (hostMove (.writeReg 0 1) (Wstatus .faulted)) (fun t => t.status == .faulted) = true ∧
    nextIs (hostMove (.writeReg 0 2) (Wstatus .faulted)) (fun t => t.status == .idle) = true := by
  decide +kernel

/-! ## Frames -/

theorem witness_OnlyDestinationSlotChanges :
    ∃ t, exec (.free 0) W = .next t ∧ (Instr.free 0).slotWritten ≠ some 1 := by
  obtain ⟨t, h, -⟩ := exists_next (r := exec (.free 0) W) (p := fun _ => true) (by decide +kernel)
  exact ⟨t, h, by decide⟩

/-- The second clause at both edges of the bytes `PACK B0, 16` stores, 16 to 19, and at a `PACK` of a full
slot that leaves the memory. -/
theorem witness_OnlyPackWritesMemory :
    (∃ t, (∀ src addr, Instr.free 0 ≠ .pack src addr) ∧ exec (.free 0) W = .next t) ∧
    (∃ t, exec (.pack 0 16) W = .next t ∧
      ∀ a ∈ [15, 20], ∀ B, W.slot 0 = .full B → a < 16 ∨ 16 + B.payloadBytes ≤ a) ∧
    (∃ t, exec (.pack 0 1021) W = .next t ∧ W.status ≠ .faulted ∧ t.status = .faulted) := by
  obtain ⟨t, h, -⟩ := exists_next (r := exec (.free 0) W) (p := fun _ => true) (by decide +kernel)
  obtain ⟨u, g, -⟩ := exists_next (r := exec (.pack 0 16) W) (p := fun _ => true) (by decide +kernel)
  obtain ⟨x, k, kx⟩ := exists_next (r := exec (.pack 0 1021) W) (p := fun t => t.status == .faulted)
    (by decide +kernel)
  refine ⟨⟨t, by simp, h⟩, ⟨u, g, fun a ha B hB => ?_⟩, x, k, by decide +kernel, by simpa using kx⟩
  have hg : greyB.payloadBytes = 4 := by decide +kernel
  rw [W_slots.1] at hB
  cases hB
  rw [hg]
  simp only [List.mem_cons, List.not_mem_nil, or_false] at ha
  omega

theorem witness_NoCommandWritesCommandStore :
    (∃ t, exec (.pack 0 16) W = .next t ∧ W.status ≠ .faulted ∧ t.status ≠ .faulted) ∧
    ∃ t, step W = .next t := by
  obtain ⟨t, h, ht⟩ := exists_next (r := exec (.pack 0 16) W) (p := fun t => t.status != .faulted)
    (by decide +kernel)
  obtain ⟨u, g, -⟩ := exists_next (r := step W) (p := fun _ => true) (by decide +kernel)
  exact ⟨⟨t, h, by decide +kernel, by simpa using ht⟩, u, g⟩

/-- Memories that differ at address 18 and agree on the payload, addresses 16 and 17; `UNPACK1`
completes. -/
theorem witness_UnpackReadsOnlyItsPayload :
    (∀ a, 16 ≤ a → a < 16 + 2 →
      ({ W with mem := [(16, 7), (17, 9), (18, 1)] } : State).readByte a = W.readByte a) ∧
    (∃ t, exec (.unpack1 3 2 1 255 16 2) W = .next t ∧ t.status = .running) ∧
    (∃ t, exec (.unpack3 3 2 1 255 16 2) W = .next t) := by
  refine ⟨fun a h1 h2 => ?_, ?_, ?_⟩
  · have : a = 16 ∨ a = 17 := by omega
    rcases this with rfl | rfl <;> decide +kernel
  · obtain ⟨t, h, ht⟩ := exists_next (r := exec (.unpack1 3 2 1 255 16 2) W)
      (p := fun t => t.status == .running) (by decide +kernel)
    exact ⟨t, h, by simpa using ht⟩
  · obtain ⟨t, h, -⟩ := exists_next (r := exec (.unpack3 3 2 1 255 16 2) W) (p := fun _ => true)
      (by decide +kernel)
    exact ⟨t, h⟩

theorem witness_OtherCommandsIgnoreMemory : ∃ t, exec (.rgb2ycc 3 1) W = .next t ∧ t.status = .running := by
  obtain ⟨t, h, ht⟩ := exists_next (r := exec (.rgb2ycc 3 1) W)
    (p := fun t => t.status == .running) (by decide +kernel)
  exact ⟨t, h, by simpa using ht⟩

/-! ## UNPACK and PACK -/

theorem witness_Unpack1DeliversBuffer :
    (1 ≤ 2 ∧ 2 ≤ 32767) ∧ (1 ≤ 1 ∧ 1 ≤ 32767) ∧ 1 ≤ 9 ∧ 2 * 1 ≤ W.params.slotCap ∧
    2 = 2 * 1 * 1 * (if 9 ≤ 255 then 1 else 2) ∧ 16 + 2 ≤ W.params.memBytes ∧
    ∀ j < 2 * 1, W.sampleNumber 16 9 j ≤ 9 := by decide +kernel

def threeBytes : State := withBytes 1021 [1, 2, 255]

theorem witness_Unpack3DeliversBuffer :
    (1 ≤ 1 ∧ 1 ≤ 32767) ∧ 1 ≤ 255 ∧ 1 * 1 ≤ threeBytes.params.slotCap ∧
    3 = 1 * 1 * 3 * (if 255 ≤ 255 then 1 else 2) ∧ 1021 + 3 ≤ threeBytes.params.memBytes ∧
    ∀ j < 1 * 1 * 3, threeBytes.sampleNumber 1021 255 j ≤ 255 := by decide +kernel

/-- Every clause of the order, each at a boundary of its range (vectors U8, U10, U11, U13, U14, U16,
U19, U22); the hypothesis itself only names the two commands. -/
theorem witness_UnpackFaultOrder :
    faults (exec (.unpack1 3 0 4 255 0 0) W) 2 1 = true ∧
    faults (exec (.unpack1 3 32768 1 255 0 0) W) 2 1 = true ∧
    faults (exec (.unpack3 3 4 0 0 0 0) W) 2 2 = true ∧
    faults (exec (.unpack3 3 4 4 0 0 16) W) 1 1 = true ∧
    faults (exec (.unpack1 3 13 5 255 0 65) W) 3 0 = true ∧
    faults (exec (.unpack1 3 8 8 255 0 65) W) 1 2 = true ∧
    faults (exec (.unpack3 3 4 4 255 0x3D1 48) W) 4 0 = true ∧
    faults (exec (.unpack1 3 2 1 8 16 2) W) 1 3 = true := by decide +kernel

theorem witness_PackWritesPayload :
    W.slot 0 = .full greyB ∧ 1020 + greyB.payloadBytes ≤ W.params.memBytes ∧
    W.slot 1 = .full colorB ∧ 1012 + colorB.payloadBytes ≤ W.params.memBytes := by decide +kernel

theorem witness_PackFaultOrder :
    W.slot 3 = .empty ∧ W.slot 0 = .full greyB ∧ W.params.memBytes < 1021 + greyB.payloadBytes := by
  decide +kernel

theorem witness_PackThenUnpackRoundTrip :
    W.slot 1 = .full colorB ∧ colorB.Legal W.params.slotCap ∧ colorB.InRange ∧ (0 : Slot) ≠ 1 ∧
    1012 + colorB.payloadBytes ≤ W.params.memBytes := by decide +kernel

/-- For `UNPACK1`, and for `UNPACK3` from `threeBytes`. -/
theorem witness_UnpackThenPackReproducesPayload :
    (∃ t, W.status ≠ .faulted ∧ exec (.unpack1 3 2 1 255 16 2) W = .next t ∧ t.status ≠ .faulted ∧
      1022 + 2 ≤ W.params.memBytes) ∧
    (∃ t, threeBytes.status ≠ .faulted ∧ exec (.unpack3 3 1 1 255 1021 3) threeBytes = .next t ∧
      t.status ≠ .faulted ∧ 0 + 3 ≤ threeBytes.params.memBytes) := by
  obtain ⟨t, h, ht⟩ := exists_next (r := exec (.unpack1 3 2 1 255 16 2) W)
    (p := fun t => t.status != .faulted) (by decide +kernel)
  obtain ⟨u, g, gu⟩ := exists_next (r := exec (.unpack3 3 1 1 255 1021 3) threeBytes)
    (p := fun t => t.status != .faulted) (by decide +kernel)
  exact ⟨⟨t, by decide +kernel, h, by simpa using ht, by decide +kernel⟩,
    u, by decide +kernel, g, by simpa using gu, by decide +kernel⟩

/-! ## RESIZE -/

/-- For both `RESIZE` statements, at the largest target the parameters allow. -/
theorem witness_ResizeDeliversBuffer :
    (3 : Slot) ≠ 1 ∧ W.slot 1 = .full colorB ∧ colorB.maxval ≤ 65535 ∧ W.params.DecidedReals ∧
    (1 ≤ 8 ∧ 8 ≤ 32767) ∧
    8 * 8 ≤ W.params.slotCap := by decide +kernel

/-- Each clause at its boundary: widths 0 and 32768, height 32768, and one sample too many. -/
theorem witness_ResizeFaultOrder :
    (3 : Slot) ≠ 0 ∧ W.slot 0 = .full greyB ∧
    faults (exec (.resizeBc 3 0 0 0) W) 2 1 = true ∧ faults (exec (.resizeBl 3 0 32768 1) W) 2 1 = true ∧
    faults (exec (.resizeBc 3 0 32767 32768) W) 2 2 = true ∧
    faults (exec (.resizeBl 3 0 13 5) W) 3 0 = true ∧ W.params.slotCap < 13 * 5 := by decide +kernel

theorem witness_SameSizeResizeIsIdentity :
    (3 : Slot) ≠ 0 ∧ W.slot 0 = .full greyB ∧ W.params.DecidedReals ∧ greyB.Legal W.params.slotCap ∧
    greyB.InRange := by decide +kernel

theorem witness_CubicKernelWeights : (0 : ℚ) ≤ 1 / 2 ∧ (1 / 2 : ℚ) < 1 := by norm_num

theorem witness_BilinearStaysBetweenSourceSamples :
    ∃ t B', (3 : Slot) ≠ 0 ∧ W.params.DecidedReals ∧ W.slot 0 = .full greyB ∧ greyB.Legal W.params.slotCap ∧
      W.status ≠ .faulted ∧ exec (.resizeBl 3 0 3 2) W = .next t ∧ t.status ≠ .faulted ∧
      t.slot 3 = .full B' ∧ 0 < greyB.planes.count ∧
      ∀ v ∈ greyB.planes.plane 0, 10 ≤ v.toNat ∧ v.toNat ≤ 255 := by
  obtain ⟨t, h, ht⟩ := exists_next (r := exec (.resizeBl 3 0 3 2) W)
    (p := fun t => t.status == .running && t.slot 3 != .empty) (by decide +kernel)
  simp only [Bool.and_eq_true, beq_iff_eq, bne_iff_ne] at ht
  cases hs : t.slot 3 with
  | empty => exact absurd hs ht.2
  | full B' =>
    refine ⟨t, B', by decide, W_params.2.1, W_slots.1, by decide +kernel, by decide +kernel, h,
      by rw [ht.1]; decide, hs, by decide +kernel, fun v hv => ?_⟩
    have hall : (greyB.planes.plane 0).all (fun v => decide (10 ≤ v.toNat ∧ v.toNat ≤ 255)) = true := by
      decide +kernel
    simpa using List.all_eq_true.mp hall v hv

theorem witness_SourceCoordinateIntegerForm : 1 ≤ 5 ∧ 2 < 3 := by decide

theorem witness_SamplersInterpolateAtPixelCentres :
    Config.Params.vectors.DecidedReals ∧ 1 < 2 ∧ 0 < 1 := by decide

/-- For both sample values. -/
theorem witness_SampleValues : Config.Params.vectors.DecidedReals ∧ 1 ≤ 1 ∧ 1 ≤ 5 := by decide

theorem witness_TieRulesAgree : Config.Params.vectors.DecidedReals ∧
    (Config.Rounding.truncHalf = .halfAway ∨ Config.Rounding.truncHalf = .truncHalf) := by decide

/-! ## DEMOSAIC and the colour commands -/

/-- An empty source, a three-plane source and a one-plane source. -/
theorem witness_DemosaicDeliversResizedIntermediate :
    ((0 : Slot) ≠ 3 ∧ W.slot 3 = .empty) ∧
    ((3 : Slot) ≠ 1 ∧ W.slot 1 = .full colorB ∧ colorB.planes.count ≠ 1) ∧
    ((3 : Slot) ≠ 0 ∧ W.slot 0 = .full greyB ∧ greyB.planes.count = 1) := by decide +kernel

/-- An even and an odd size, so that the last clause is met too. -/
theorem witness_DemosaicIsBlockReplication :
    (∀ B ∈ [greyB, grey 3 3 255 [1, 2, 3, 4, 5, 6, 7, 8, 9]],
      ((withBuffer 0 B).slot 0 = .full B ∧ B.Legal (withBuffer 0 B).params.slotCap ∧ B.InRange)) ∧
    (3 : Slot) ≠ 0 ∧ W.params.DecidedReals ∧ greyB.planes = .one (plane [10, 20, 30, 255]) ∧
    (0 < 3 / 2 ∧ 2 < 3 ∧ 3 / 2 ≤ 2 / 2) := by decide +kernel

/-- For `RGB2YCC` and `YCC2RGB` both. -/
theorem witness_ColorDeliversFormulae :
    (3 : Slot) ≠ 1 ∧ W.slot 1 = .full colorB ∧
    W.params.shift = .floor ∧
    colorB.planes = .three (plane [258, 0]) (plane [772, 1]) (plane [65535, 32768]) := by decide +kernel

theorem witness_ColorRoundTripIsWithinTwo :
    W.params.shift = .floor ∧ (3 : Slot) ≠ 2 ∧ (0 : Slot) ≠ 3 ∧ W.slot 2 = .full byteB ∧
    byteB.planes = .three (plane [255, 0]) (plane [0, 6]) (plane [0, 39]) ∧
    byteB.samplesAtMost 255 := by decide +kernel

/-- A grey pixel, which meets the last clause too. -/
theorem witness_Rgb2yccOnEightBitSamples : ((0 : Int) ≤ 255 ∧ (255 : Int) ≤ 255) ∧ (255 : Int) = 255 := by
  decide

/-! ## The host -/

/-- One word for each branch, and a state for each clause of START. -/
theorem witness_CtrlWriteStartsOrResets :
    (3 : Word)[1] = true ∧ (1 : Word)[1] = false ∧ (1 : Word)[0] = true ∧ (4 : Word)[0] = false ∧
    (Wstatus .halted).status = .halted ∧ (Wstatus .faulted).status = .faulted := by decide +kernel

/-- The last slot that exists, and the numbers on both sides of the descriptors. -/
theorem witness_RegistersAreViewsOfState :
    ((3 : Slot).val < W.params.nbuf ∧ W.slot 3 = .empty) ∧
    ((1 : Slot).val < W.params.nbuf ∧ W.slot 1 = .full colorB ∧ colorB.Legal W.params.slotCap) ∧
    ((5 < (0x0F : BitVec 8).toNat ∧ (0x0F : BitVec 8).toNat < 0x10) ∧
      0x10 + 4 * W.params.nbuf ≤ (0x20 : BitVec 8).toNat) := by
  decide +kernel

theorem witness_HostCannotWriteSlots :
    nextIs (hostMove (.writeMem 0 1) (Wstatus .halted)) (fun t => t.slots == W.slots) = true ∧
    nextIs (hostMove (.writeReg 0 2) W) (fun t => t.slot 0 == .empty) = true := by decide +kernel

/-- Each clause at a boundary: the last byte and the last entry, a RUNNING engine, one past both. -/
theorem witness_HostWritesTheMemories :
    ((Wstatus .faulted).status ≠ .running ∧ 1023 < (Wstatus .faulted).params.memBytes ∧
      255 < (Wstatus .faulted).params.ncmd) ∧ W.status = .running ∧
    (Wstatus .faulted).params.memBytes ≤ 1024 ∧ (Wstatus .faulted).params.ncmd ≤ 256 := by
  decide +kernel

end Sys2Proof.Tests
end

section
/-! The samplers' values, and the tie rules that give the same ones (`00_scope.md` R6, `42_resampler.md`
R91 to R94, R100, R101). -/

namespace Sys2Proof.Machine

/-! ## Clamping, rounding and the neighbour lookup -/

theorem clamp_eq_max_min {lo hi : Int} (v : Int) (h : lo ≤ hi) :
    clamp v lo hi = max lo (min v hi) := by
  unfold clamp; split <;> [omega; split <;> omega]

theorem roundHalfUp_eq_floor (q : ℚ) : roundHalfUp q = ⌊q + 1 / 2⌋ := rfl

/-- The fraction of an offset coordinate, in the words of the obligations. -/
theorem frac_eq_sub_floor (q : ℚ) : frac q = q - ⌊q⌋ := rfl

/-- The lookup in a plane that is not empty: the sample at the clamped row and column. -/
theorem Plane.px_eq_sample (p : Plane) {w h : Nat} (hw : 1 ≤ w) (hh : 1 ≤ h) (i j : Int) :
    p.px w h i j =
      (p.sample ((max 0 (min j (h - 1))).toNat * w + (max 0 (min i (w - 1))).toNat)).toNat := by
  rw [Plane.px, clamp_eq_max_min i (by omega), clamp_eq_max_min j (by omega), sampleInt,
    Int.toNat_add (by positivity) (by positivity), Int.toNat_mul (by positivity) (by positivity),
    Int.toNat_natCast]

/-! ## The bicubic sampler -/

/-- The weights of the four taps (R91(c)). -/
def cubicWeight (t : ℚ) : Fin 4 → ℚ :=
  ![(-t ^ 3 + 2 * t ^ 2 - t) / 2, (3 * t ^ 3 - 5 * t ^ 2 + 2) / 2,
    (-3 * t ^ 3 + 4 * t ^ 2 + t) / 2, (t ^ 3 - t ^ 2) / 2]

/-- The kernel on four taps in a row, the second at `i`, is their weighted sum (R91(c), R92). -/
theorem cubic_taps_eq_sum (f : Int → ℚ) (i : Int) (t : ℚ) :
    cubic .exact (f (i - 1)) (f i) (f (i + 1)) (f (i + 2)) t =
      ∑ k : Fin 4, cubicWeight t k * f (i - 1 + k.val) := by
  have h1 : i - 1 + 1 = i := by ring
  have h2 : i - 1 + 2 = i + 1 := by ring
  have h3 : i - 1 + 3 = i + 2 := by ring
  simp only [Fin.sum_univ_four, cubicWeight, Matrix.cons_val, Fin.isValue, Fin.coe_ofNat_eq_mod,
    Nat.reduceMod, Nat.cast_zero, Nat.cast_one, Nat.cast_ofNat, add_zero, h1, h2, h3, cubic_exact]
  ring

/-- `val` of R93: each of the four rows is the weighted sum of its taps, and `val` that of the rows. -/
theorem Plane.cubicAt_eq_sum (p : Plane) (w h : Nat) (u v : ℚ) :
    p.cubicAt .exact w h u v = ∑ r : Fin 4, ∑ c : Fin 4,
      cubicWeight (frac (v - 1 / 2)) r * cubicWeight (frac (u - 1 / 2)) c *
        p.px w h (⌊u - 1 / 2⌋ - 1 + c.val) (⌊v - 1 / 2⌋ - 1 + r.val) := by
  have hrow (j : Int) : p.cubicRow .exact w h ⌊u - 1 / 2⌋ j (frac (u - 1 / 2)) =
      ∑ c : Fin 4, cubicWeight (frac (u - 1 / 2)) c * p.px w h (⌊u - 1 / 2⌋ - 1 + c.val) j :=
    cubic_taps_eq_sum (fun i => p.px w h i j) _ _
  calc p.cubicAt .exact w h u v
      = ∑ r : Fin 4, cubicWeight (frac (v - 1 / 2)) r *
          p.cubicRow .exact w h ⌊u - 1 / 2⌋ (⌊v - 1 / 2⌋ - 1 + r.val) (frac (u - 1 / 2)) :=
        cubic_taps_eq_sum (fun j => p.cubicRow .exact w h ⌊u - 1 / 2⌋ j (frac (u - 1 / 2))) _ _
    _ = _ := by simp only [hrow, Finset.mul_sum, mul_assoc]

/-- Settles O57: the kernel's weighted sum along each axis, then the clamped lookup of each tap. -/
theorem bicubicSampleValue : Obligations.BicubicSampleValue := by
  intro pr p u v w h maxval ⟨har, hro⟩ hw hh
  simp only [sampleBicubic, har, hro, roundTo_floorHalf, roundHalfUp_eq_floor,
    clamp_eq_max_min _ (Int.natCast_nonneg maxval), Plane.cubicAt_eq_sum,
    Plane.px_eq_sample p hw hh, frac_eq_sub_floor]
  rw [min_comm]
  rfl

/-! ## The bilinear sampler -/

/-- The sampler is the rounded blend, by the fractions, of the four corners' lookups (R100, R101). -/
theorem bilinearAt_exact {pr : Config.Params} (har : pr.arith = .exact) (p : Plane) (u v : ℚ)
    (w h : Nat) :
    bilinearAt pr p u v w h = roundTo pr.round
      (blend .exact (p.px w h ⌊u - 1 / 2⌋ ⌊v - 1 / 2⌋) (p.px w h (⌊u - 1 / 2⌋ + 1) ⌊v - 1 / 2⌋)
        (p.px w h ⌊u - 1 / 2⌋ (⌊v - 1 / 2⌋ + 1)) (p.px w h (⌊u - 1 / 2⌋ + 1) (⌊v - 1 / 2⌋ + 1))
        (frac (u - 1 / 2)) (frac (v - 1 / 2))) := by
  rw [bilinearAt, sampleBilinear, har]; rfl

/-- Settles O58: the blend of R100 multiplied out, then the clamped lookup of each corner. -/
theorem bilinearSampleValue : Obligations.BilinearSampleValue := by
  intro pr p u v w h ⟨har, hro⟩ hw hh
  simp only [bilinearAt_exact har, hro, roundTo_floorHalf, roundHalfUp_eq_floor, blend_exact,
    Plane.px_eq_sample p hw hh, frac_eq_sub_floor, add_zero, Int.cast_natCast]
  congr 2
  ring

/-! ## The tie rules (R6) -/

/-- The blend's value is not negative: it weighs samples by fractions and their complements. -/
theorem blend_exact_nonneg {p11 p12 p21 p22 : Int} {fx fy : ℚ} (h11 : 0 ≤ p11) (h12 : 0 ≤ p12)
    (h21 : 0 ≤ p21) (h22 : 0 ≤ p22) (hx : 0 ≤ fx) (hx1 : fx ≤ 1) (hy : 0 ≤ fy) (hy1 : fy ≤ 1) :
    0 ≤ blend .exact p11 p12 p21 p22 fx fy := by
  have hx' := sub_nonneg.mpr hx1
  have hy' := sub_nonneg.mpr hy1
  rw [blend_exact]
  positivity

theorem roundTo_tie_of_nonneg {tie : Config.Rounding} (ht : tie = .halfAway ∨ tie = .truncHalf)
    {q : ℚ} (hq : 0 ≤ q) : roundTo tie q = roundHalfUp q := by
  rcases ht with rfl | rfl
  · exact roundTo_halfAway_of_nonneg hq
  · exact roundTo_truncHalf_of_nonneg hq

theorem roundHalfUp_nonneg {q : ℚ} (hq : 0 ≤ q) : 0 ≤ roundHalfUp q := by
  rw [roundHalfUp_eq_floor]
  positivity

theorem floor_nonpos_of_lt_one {q : ℚ} (hq : q < 1) : ⌊q⌋ ≤ 0 :=
  Int.floor_le_iff.mpr (by simpa using hq)

theorem roundHalfUp_nonpos {q : ℚ} (hq : q < 0) : roundHalfUp q ≤ 0 :=
  floor_nonpos_of_lt_one (by linarith)

theorem truncate_nonpos {q : ℚ} (hq : q < 1) : truncate q ≤ 0 := by
  unfold truncate
  split
  case isTrue => exact floor_nonpos_of_lt_one hq
  case isFalse h =>
    have : 0 ≤ ⌊-q⌋ := Int.floor_nonneg.mpr (by linarith)
    exact neg_nonpos.mpr this

/-- A negative value rounds to nothing above 0 by either rule. -/
theorem roundTo_tie_nonpos {tie : Config.Rounding} (ht : tie = .halfAway ∨ tie = .truncHalf)
    {q : ℚ} (hq : q < 0) : roundTo tie q ≤ 0 := by
  rcases ht with rfl | rfl
  · rw [roundTo, if_neg (not_le.mpr hq)]
    exact neg_nonpos.mpr (roundHalfUp_nonneg (by linarith))
  · exact truncate_nonpos (by linarith)

/-- The rules differ on negative values only, which the clamp to `0 .. hi` takes to 0. -/
theorem clamp_roundTo_tie {tie : Config.Rounding} (ht : tie = .halfAway ∨ tie = .truncHalf)
    (q : ℚ) {hi : Int} (hhi : 0 ≤ hi) :
    clamp (roundTo tie q) 0 hi = clamp (roundHalfUp q) 0 hi := by
  rcases le_or_gt 0 q with hq | hq
  · rw [roundTo_tie_of_nonneg ht hq]
  · have h1 := roundTo_tie_nonpos ht hq
    have h2 := roundHalfUp_nonpos hq
    rw [clamp_eq_max_min _ hhi, clamp_eq_max_min _ hhi]
    omega

/-- Settles O59: the clamp hides the difference in `SampleBicubic`, and the blend of `BilinearAt` is
never negative, where the rules agree. -/
theorem tieRulesAgree : Obligations.TieRulesAgree := by
  intro pr tie p u v w h maxval ⟨har, hro⟩ ht
  constructor
  · simp only [sampleBicubic, hro, roundTo_floorHalf,
      clamp_roundTo_tie ht _ (Int.natCast_nonneg maxval)]
  · rw [bilinearAt_exact (pr := { pr with round := tie }) har, bilinearAt_exact har, hro,
      roundTo_floorHalf]
    exact roundTo_tie_of_nonneg ht (blend_exact_nonneg (p.px_nonneg ..) (p.px_nonneg ..)
      (p.px_nonneg ..) (p.px_nonneg ..) (frac_nonneg _) (frac_lt_one _).le (frac_nonneg _)
      (frac_lt_one _).le)

end Sys2Proof.Machine
end

section
/-! What a command can write, said once for all commands: how each one ends, with the value it puts in
its destination slot and the tests that value rests on; what a step can do; and the statements that
follow from these alone (`10_state.md` R12, R13, R18 to R20). -/

namespace Sys2Proof.Machine

/-! ## How a command ends -/

/-- The tests of `Unpack` on which the delivered buffer rests (R70). -/
abbrev State.UnpackPasses (s : State) (c : Format) (w h maxval addr : Nat) : Prop :=
  (1 ≤ w ∧ w ≤ Config.dimMax) ∧ (1 ≤ h ∧ h ≤ Config.dimMax) ∧ maxval ≠ 0 ∧
  w * h ≤ s.params.slotCap ∧ s.payloadTooLarge c w h maxval addr = false

/-- The tests of `RESIZE` on the target size (R106). -/
abbrev State.ResizePasses (s : State) (tw th : Nat) : Prop :=
  (1 ≤ tw ∧ tw ≤ Config.dimMax) ∧ (1 ≤ th ∧ th ≤ Config.dimMax) ∧ tw * th ≤ s.params.slotCap

/-- `Writes s i x`: the tests of command `i` pass in `s`, and `x` is what it puts in its slot. -/
inductive Writes (s : State) : Instr → SlotValue → Prop where
  | unpack1 {d w h maxval addr len} (ht : s.UnpackPasses .single w h maxval addr) :
      Writes s (.unpack1 d w h maxval addr len) (.full (s.unpacked .single w h maxval addr))
  | unpack3 {d w h maxval addr len} (ht : s.UnpackPasses .three w h maxval addr) :
      Writes s (.unpack3 d w h maxval addr len) (.full (s.unpacked .three w h maxval addr))
  | resizeBc {d src tw th B} (hs : s.slot src = .full B) (ht : s.ResizePasses tw th) :
      Writes s (.resizeBc d src tw th) (.full (resizeBuffer s.params B tw th .bicubic))
  | resizeBl {d src tw th B} (hs : s.slot src = .full B) (ht : s.ResizePasses tw th) :
      Writes s (.resizeBl d src tw th) (.full (resizeBuffer s.params B tw th .bilinear))
  | demosaicBc {d src B} (hs : s.slot src = .full B) :
      Writes s (.demosaicBc d src) (.full (demosaicBuffer s.params B .bicubic))
  | demosaicBl {d src B} (hs : s.slot src = .full B) :
      Writes s (.demosaicBl d src) (.full (demosaicBuffer s.params B .bilinear))
  | rgb2ycc {d src B} (hs : s.slot src = .full B) :
      Writes s (.rgb2ycc d src) (.full (rgbToYcc s.params.shift B))
  | ycc2rgb {d src B} (hs : s.slot src = .full B) :
      Writes s (.ycc2rgb d src) (.full (yccToRgb s.params.shift B))
  | free {d} : Writes s (.free d) .empty

/-- The ways command `i` can end from `s`. It refines `Effect` by which command does what. -/
inductive Ends (s : State) : Instr → State → Prop where
  | raised {i} (f : Cause) (info : Nat) : Ends s i (s.raise f info)
  | wrote {i d x} (hd : i.slotWritten = some d) (hx : Writes s i x) : Ends s i (s.setSlot d x).advance
  | packed {src addr B} (hs : s.slot src = .full B) (hm : s.inMemory addr B.payload.length) :
      Ends s (.pack src addr) (s.memWrite addr B.payload).advance
  | halted : Ends s .halt { s with status := .halted }

theorem unpack_ends (d : Slot) (c : Format) (w h maxval addr len : Nat) (s : State) :
    (∃ f info, unpack d c w h maxval addr len s = .next (s.raise f info)) ∨
    (s.UnpackPasses c w h maxval addr ∧ unpack d c w h maxval addr len s =
      .next (s.setSlot d (.full (s.unpacked c w h maxval addr))).advance) := by
  rcases unpack_cases d c w h maxval addr len s with e | ⟨e, hw, hh, hmax, hcap, -, -, hbig⟩
  · exact .inl e
  · exact .inr ⟨⟨hw, hh, hmax, hcap, hbig⟩, e⟩

theorem exec_ends (i : Instr) (s : State) : ∃ t, exec i s = .next t ∧ Ends s i t := by
  cases i with
  | unpack1 d w h maxval addr len =>
    rcases unpack_ends d .single w h maxval addr len s with ⟨f, n, e⟩ | ⟨ht, e⟩
    · exact ⟨_, e, .raised f n⟩
    · exact ⟨_, e, .wrote rfl (.unpack1 ht)⟩
  | unpack3 d w h maxval addr len =>
    rcases unpack_ends d .three w h maxval addr len s with ⟨f, n, e⟩ | ⟨ht, e⟩
    · exact ⟨_, e, .raised f n⟩
    · exact ⟨_, e, .wrote rfl (.unpack3 ht)⟩
  | pack src addr =>
    rcases execPack_cases src addr s with ⟨f, n, e⟩ | ⟨B, hs, hm, e⟩
    · exact ⟨_, e, .raised f n⟩
    · exact ⟨_, e, .packed hs (by rwa [PixelBuffer.payload_length])⟩
  | resizeBc d src tw th =>
    rcases resize_cases .bicubic d src tw th s with ⟨f, n, e⟩ | ⟨B, -, hs, ht, e⟩
    · exact ⟨_, e, .raised f n⟩
    · exact ⟨_, e, .wrote rfl (.resizeBc hs ht)⟩
  | resizeBl d src tw th =>
    rcases resize_cases .bilinear d src tw th s with ⟨f, n, e⟩ | ⟨B, -, hs, ht, e⟩
    · exact ⟨_, e, .raised f n⟩
    · exact ⟨_, e, .wrote rfl (.resizeBl hs ht)⟩
  | demosaicBc d src =>
    rcases demosaic_cases .bicubic d src s with ⟨f, n, e⟩ | ⟨B, -, hs, -, e⟩
    · exact ⟨_, e, .raised f n⟩
    · exact ⟨_, e, .wrote rfl (.demosaicBc hs)⟩
  | demosaicBl d src =>
    rcases demosaic_cases .bilinear d src s with ⟨f, n, e⟩ | ⟨B, -, hs, -, e⟩
    · exact ⟨_, e, .raised f n⟩
    · exact ⟨_, e, .wrote rfl (.demosaicBl hs)⟩
  | rgb2ycc d src =>
    rcases colorCommand_cases (rgbToYcc s.params.shift) d src s with ⟨f, n, e⟩ | ⟨B, -, hs, -, e⟩
    · exact ⟨_, e, .raised f n⟩
    · exact ⟨_, e, .wrote rfl (.rgb2ycc hs)⟩
  | ycc2rgb d src =>
    rcases colorCommand_cases (yccToRgb s.params.shift) d src s with ⟨f, n, e⟩ | ⟨B, -, hs, -, e⟩
    · exact ⟨_, e, .raised f n⟩
    · exact ⟨_, e, .wrote rfl (.ycc2rgb hs)⟩
  | free d => exact ⟨_, rfl, .wrote rfl .free⟩
  | halt => exact ⟨_, rfl, .halted⟩

theorem Ends.of_exec {i : Instr} {s t : State} (h : exec i s = .next t) : Ends s i t := by
  obtain ⟨u, hu, he⟩ := exec_ends i s
  cases hu.symm.trans h
  exact he

theorem Effect.of_exec {i : Instr} {s t : State} (h : exec i s = .next t) : Effect s t := by
  obtain ⟨u, hu, he⟩ := exec_effect i s
  cases hu.symm.trans h
  exact he

/-! ## The step (R153) -/

theorem step_of_not_running {s : State} (h : s.status ≠ .running) : step s = .next s := by
  unfold step
  split
  · contradiction
  all_goals rfl

theorem step_of_fetch_error {s : State} {f : Cause} {info : Nat} (hr : s.status = .running)
    (hf : s.fetch = .error (f, info)) : step s = .next (s.raise f info) := by
  simp only [step, hr, hf, trap_eq]

theorem step_of_fetch_ok {s : State} {i : Instr} (hr : s.status = .running)
    (hf : s.fetch = .ok i) : step s = exec i s := by
  simp only [step, hr, hf]

/-- What a step can do: nothing, a fault of the fetch, or the command fetched. -/
theorem step_cases (s : State) :
    (s.status ≠ .running ∧ step s = .next s) ∨
    (s.status = .running ∧ ∃ f info, step s = .next (s.raise f info)) ∨
    (s.status = .running ∧ s.pc.toNat < s.params.ncmd ∧
      ∃ i, decode s.params.nbuf (s.readCommand s.pc.toNat) = .ok i ∧ step s = exec i s) := by
  by_cases hr : s.status = .running
  · rcases s.fetch_cases with ⟨-, hf⟩ | ⟨hpc, ⟨e, -, hf⟩ | ⟨i, hi, hf⟩⟩
    · exact .inr (.inl ⟨hr, _, _, step_of_fetch_error hr hf⟩)
    · exact .inr (.inl ⟨hr, _, _, step_of_fetch_error hr hf⟩)
    · exact .inr (.inr ⟨hr, hpc, i, hi, step_of_fetch_ok hr hf⟩)
  · exact .inl ⟨hr, step_of_not_running hr⟩

/-- Settles O8. -/
theorem engineStepsOnlyWhenRunning : Obligations.EngineStepsOnlyWhenRunning :=
  fun _ => step_of_not_running

/-! ## The error registers (R19, R170) -/

/-- An effect other than the fault entry writes none of the error registers. -/
theorem Effect.errorRegisters_kept {s t : State} (h : Effect s t) (ht : t.status ≠ .faulted) :
    t.err = s.err ∧ t.errInfo = s.errInfo ∧ t.errPc = s.errPc := by
  cases h with
  | raised f info => exact absurd (s.raise_status f info) ht
  | slotWritten d x => exact ⟨rfl, rfl, rfl⟩
  | bytesWritten addr bs _ => exact ⟨rfl, rfl, rfl⟩
  | stopped => exact ⟨rfl, rfl, rfl⟩

/-- Settles O18: by the effect of the command, and of the command a step runs. -/
theorem errorRegistersWrittenOnlyByFault : Obligations.ErrorRegistersWrittenOnlyByFault := by
  refine ⟨fun i s t h => (Effect.of_exec h).errorRegisters_kept, fun s t h ht => ?_⟩
  rcases step_cases s with ⟨-, e⟩ | ⟨-, f, info, e⟩ | ⟨-, -, i, -, e⟩
  · cases e.symm.trans h
    exact ⟨rfl, rfl, rfl⟩
  · cases e.symm.trans h
    exact absurd (s.raise_status f info) ht
  · exact (Effect.of_exec (e.symm.trans h)).errorRegisters_kept ht

/-! ## The slots a command leaves alone (R12) -/

/-- Settles O24: by the ways a command can end. -/
theorem onlyDestinationSlotChanges : Obligations.OnlyDestinationSlotChanges := by
  intro i s t h
  cases Ends.of_exec h with
  | raised f info => exact ⟨fun k _ => rfl, rfl⟩
  | wrote hd _ =>
    refine ⟨fun k hk => ?_, rfl⟩
    rw [State.advance_slot, State.setSlot_slot_ne s]
    rintro rfl
    exact hk hd
  | packed _ _ => exact ⟨fun k _ => rfl, rfl⟩
  | halted => exact ⟨fun k _ => rfl, rfl⟩

/-! ## The source tests of the two-slot commands (R13, R167) -/

/-- Every command with two slots opens with the shared tests on them. -/
theorem exec_of_slotPair {i : Instr} {d src : Slot} (h : i.slotPair = some (d, src)) (s : State) :
    ∃ k, exec i s = withDistinctSource s d src k := by
  cases i with
  | resizeBc | resizeBl | demosaicBc | demosaicBl | rgb2ycc | ycc2rgb => cases h; exact ⟨_, rfl⟩
  | unpack1 | unpack3 | pack | free | halt => cases h

/-- Settles O21. -/
theorem emptySourceRaisesEmptySlot : Obligations.EmptySourceRaisesEmptySlot := by
  refine fun src s hs => ⟨fun addr => withSource_empty hs _, fun i d hi hd => ?_⟩
  obtain ⟨k, hk⟩ := exec_of_slotPair hi s
  rw [Raises, hk, withDistinctSource_ne s hd, withSource_empty hs]
  rfl

/-! ## The host's write of CTRL and its reads of the registers (R19, R20) -/

theorem hostMove_writeCtrl (s : State) (v : Word) :
    hostMove (.writeReg 0 v) s = .next (s.writeCtrl v) := rfl

theorem State.start_of_stopped {s : State} (h : s.status = .idle ∨ s.status = .halted) :
    s.start = { s with pc := 0, status := .running } := by
  rcases h with h | h <;> simp only [State.start, h]

theorem State.start_ignored {s : State} (h : s.status = .running ∨ s.status = .faulted) :
    s.start = s := by
  rcases h with h | h <;> simp only [State.start, h]

/-- Settles O53: along the tests of `HostWriteCtrl`. -/
theorem ctrlWriteStartsOrResets : Obligations.CtrlWriteStartsOrResets := by
  intro s v
  simp only [hostMove_writeCtrl, State.writeCtrl]
  split
  case isTrue => rfl
  case isFalse =>
    split
    case isTrue =>
      exact ⟨fun h => by rw [State.start_of_stopped h], fun h => by rw [State.start_ignored h]⟩
    case isFalse => rfl

/-- Past `ERRPC` there are the descriptors of the slots and nothing else. -/
theorem State.register_of_gt {s : State} {n : BitVec 8} (h : 5 < n.toNat) :
    s.register n = if 0x10 ≤ n.toNat ∧ n.toNat < 0x10 + 4 * s.params.nbuf then
      (s.slot (Fin.ofNat 16 ((n.toNat - 0x10) / 4))).descriptor n.toNat else 0 := by
  unfold State.register
  split
  iterate 6 omega
  rfl

theorem SlotValue.descriptor_mod (x : SlotValue) (n : Nat) :
    x.descriptor (n % 4) = x.descriptor n := by
  simp only [SlotValue.descriptor, Nat.mod_mod]

/-- The registers of slot `k`'s descriptor. -/
theorem State.register_descriptor {s : State} {k : Slot} (hk : k.val < s.params.nbuf) {j : Nat}
    (hj : j < 4) :
    s.register (BitVec.ofNat 8 (0x10 + 4 * k.val + j)) = (s.slot k).descriptor j := by
  have hn : (BitVec.ofNat 8 (0x10 + 4 * k.val + j)).toNat = 0x10 + 4 * k.val + j := by
    rw [BitVec.toNat_ofNat]
    omega
  have hslot : Fin.ofNat 16 ((0x10 + 4 * k.val + j - 0x10) / 4) = k := by
    ext
    simp only [Fin.ofNat]
    omega
  rw [State.register_of_gt (by omega), hn, if_pos (by omega), hslot, ← SlotValue.descriptor_mod]
  congr 1
  omega

theorem SlotValue.bstat_full_toNat (B : PixelBuffer) :
    (SlotValue.full B).bstat.toNat = 1 + 2 * B.planes.count := by
  rcases B.planes.count_eq with h | h <;> rw [SlotValue.bstat, h] <;> rfl

theorem SlotValue.bdim_full_toNat {B : PixelBuffer} (hw : B.width ≤ Config.dimMax)
    (hh : B.height ≤ Config.dimMax) :
    (SlotValue.full B).bdim.toNat = B.width + 65536 * B.height := by
  unfold Config.dimMax at hw hh
  simp only [SlotValue.bdim, toNat_append_eq, BitVec.toNat_ofNat]
  omega

theorem SlotValue.bmax_full_toNat {B : PixelBuffer} (h : B.maxval ≤ Config.maxvalMax) :
    (SlotValue.full B).bmax.toNat = B.maxval := by
  unfold Config.maxvalMax at h
  simp only [SlotValue.bmax, BitVec.truncate_eq_setWidth, BitVec.toNat_setWidth, BitVec.toNat_ofNat]
  omega

/-- Settles O54: the sequencer's registers one by one, the descriptors by `State.register_descriptor`. -/
theorem registersAreViewsOfState : Obligations.RegistersAreViewsOfState := by
  intro s
  refine ⟨⟨rfl, ?_, ?_, ?_, ?_⟩, ⟨?_, ?_, ?_, ?_⟩, fun k hk => ?_, fun n hn => ?_⟩
  · exact BitVec.toNat_setWidth_of_le (by decide)
  · exact BitVec.toNat_setWidth_of_le (by decide)
  · exact BitVec.toNat_setWidth_of_le (by decide)
  · exact BitVec.toNat_setWidth_of_le (by decide)
  iterate 4 exact fun h => congrArg (fun e : EngineState => e.code.zeroExtend 32) h
  · simp only [State.register_descriptor hk (show 0 < 4 by decide),
      State.register_descriptor hk (show 1 < 4 by decide),
      State.register_descriptor hk (show 2 < 4 by decide),
      State.register_descriptor hk (show 3 < 4 by decide)]
    refine ⟨fun he => ?_, fun B hB ⟨⟨_, hw⟩, ⟨_, hh⟩, ⟨_, hm⟩, _⟩ => ?_, rfl⟩
    · rw [he]
      exact ⟨rfl, rfl, rfl⟩
    · rw [hB]
      exact ⟨SlotValue.bstat_full_toNat B, SlotValue.bdim_full_toNat hw hh, SlotValue.bmax_full_toNat hm⟩
  · rw [State.register_of_gt (by omega), if_neg (by omega)]

end Sys2Proof.Machine
end

section
/-! The samples of a written buffer: what each unit keeps within a bound (`10_state.md` R15, R16, with
`42_resampler.md` R94, R100 and `44_color_matrix.md` R137). -/

namespace Sys2Proof.Machine

/-! ## Samples within a bound -/

/-- An integer of 0 to `m`, stored as a sample, is at most `m`. -/
theorem sampleOfInt_toNat_le {v : Int} {m : Nat} (h0 : 0 ≤ v) (hm : v ≤ m) :
    (sampleOfInt v).toNat ≤ m := by
  simp only [sampleOfInt, BitVec.toNat_ofInt]
  omega

theorem Plane.tabulate_le {n m : Nat} {f : Nat → Sample} (h : ∀ i < n, (f i).toNat ≤ m) :
    ∀ v ∈ Plane.tabulate n f, v.toNat ≤ m := by
  intro v hv
  obtain ⟨i, hi, rfl⟩ := Plane.mem_tabulate.mp hv
  exact h i hi

/-- A read of a plane keeps the plane's bound, past its end too. -/
theorem Plane.sample_le {p : Plane} {m : Nat} (h : ∀ v ∈ p, v.toNat ≤ m) (i : Nat) :
    (p.sample i).toNat ≤ m := by
  rcases p.sample_mem i with hi | hi
  · exact h _ hi
  · simp [hi]

theorem Plane.px_le_of_le {p : Plane} {m : Nat} (h : ∀ v ∈ p, v.toNat ≤ m) (w ht : Nat) (i j : Int) :
    p.px w ht i j ≤ m :=
  Int.ofNat_le.mpr (Plane.sample_le h _)

/-! ## UNPACK -/

theorem Format.mem_planes {c : Format} {f : Nat → Plane} {p : Plane}
    (h : p ∈ (c.planes f).toList) : ∃ k < c.channels, p = f k := by
  cases c with
  | single => exact ⟨0, by decide, by simpa [Format.planes, Planes.toList] using h⟩
  | three =>
    simp only [Format.planes, Planes.toList, List.mem_cons, List.not_mem_nil, or_false] at h
    rcases h with h | h | h
    · exact ⟨0, by decide, h⟩
    · exact ⟨1, by decide, h⟩
    · exact ⟨2, by decide, h⟩

/-- R70 line 14: a payload that passes its test has every sample within `maxval`. -/
theorem State.payloadSample_le {s : State} {c : Format} {w h maxval addr : Nat}
    (ht : s.payloadTooLarge c w h maxval addr = false) {j : Nat} (hj : j < w * h * c.channels) :
    (s.payloadSample addr maxval j).toNat ≤ maxval := by
  simp only [State.payloadTooLarge, List.any_eq_false, List.mem_range, decide_eq_true_eq, not_lt] at ht
  exact ht j hj

theorem State.mem_unpacked_planes {s : State} {c : Format} {w h maxval addr : Nat} {p : Plane}
    (hp : p ∈ (s.unpacked c w h maxval addr).planes.toList) :
    ∃ k < c.channels, p = Plane.tabulate (w * h) fun i =>
      s.payloadSample addr maxval (i * c.channels + k) :=
  Format.mem_planes (c := c) hp

theorem State.unpacked_inRange {s : State} {c : Format} {w h maxval addr : Nat}
    (ht : s.payloadTooLarge c w h maxval addr = false) : (s.unpacked c w h maxval addr).InRange := by
  rw [PixelBuffer.InRange, PixelBuffer.samplesAtMost_iff]
  intro p hp
  obtain ⟨k, hk, rfl⟩ := State.mem_unpacked_planes hp
  refine Plane.tabulate_le fun i hi => s.payloadSample_le ht ?_
  calc i * c.channels + k < (i + 1) * c.channels := by rw [Nat.succ_mul]; omega
    _ ≤ w * h * c.channels := Nat.mul_le_mul_right _ hi

/-! ## RESIZE and DEMOSAIC -/

theorem resizeBuffer_samplesAtMost {pr : Config.Params} {B : PixelBuffer} {tw th m : Nat} {f : Filter}
    (h : ∀ p ∈ B.planes.toList, ∀ x y, 0 ≤ resizeSample pr f B tw th p x y ∧
      resizeSample pr f B tw th p x y ≤ m) :
    (resizeBuffer pr B tw th f).samplesAtMost m := by
  rw [PixelBuffer.samplesAtMost_iff, resizeBuffer_planes, Planes.toList_map, List.forall_mem_map]
  exact fun p hp => Plane.tabulate_le fun i _ => sampleOfInt_toNat_le (h p hp _ _).1 (h p hp _ _).2

/-- R94: `SampleBicubic` clamps, so the source's samples do not matter. -/
theorem resizeBuffer_bicubic_inRange (pr : Config.Params) (B : PixelBuffer) (tw th : Nat) :
    (resizeBuffer pr B tw th .bicubic).InRange :=
  resizeBuffer_samplesAtMost fun _ _ _ _ => clamp_bounds _ (Int.natCast_nonneg _)

/-- A weighted mean of two numbers is at most what both are at most. -/
theorem mean_le {a b f m : ℚ} (ha : a ≤ m) (hb : b ≤ m) (h0 : 0 ≤ f) (h1 : f ≤ 1) :
    (1 - f) * a + f * b ≤ m := by
  have := mul_le_mul_of_nonneg_left ha (sub_nonneg.mpr h1)
  have := mul_le_mul_of_nonneg_left hb h0
  linarith

/-- R100: the blend lies between its corners, here below a bound of all four. -/
theorem blend_exact_le {p11 p12 p21 p22 m : Int} {fx fy : ℚ} (h11 : p11 ≤ m) (h12 : p12 ≤ m)
    (h21 : p21 ≤ m) (h22 : p22 ≤ m) (hx : 0 ≤ fx) (hx1 : fx ≤ 1) (hy : 0 ≤ fy) (hy1 : fy ≤ 1) :
    blend .exact p11 p12 p21 p22 fx fy ≤ m := by
  rw [blend_exact]
  exact mean_le (mean_le (mod_cast h11) (mod_cast h12) hx hx1)
    (mean_le (mod_cast h21) (mod_cast h22) hx hx1) hy hy1

/-- `BilinearAt` keeps a bound of the plane's samples. -/
theorem bilinearAt_bounds {pr : Config.Params} (hpr : pr.DecidedReals) {p : Plane} {m : Nat}
    (hp : ∀ v ∈ p, v.toNat ≤ m) (u v : ℚ) (w h : Nat) :
    0 ≤ bilinearAt pr p u v w h ∧ bilinearAt pr p u v w h ≤ m := by
  obtain ⟨har, hro⟩ := hpr
  have hpx (i j : Int) : p.px w h i j ≤ m := Plane.px_le_of_le hp w h i j
  rw [bilinearAt_exact har, hro, roundTo_floorHalf]
  refine roundHalfUp_bounds ?_ ?_
  · exact mod_cast blend_exact_nonneg (p.px_nonneg ..) (p.px_nonneg ..) (p.px_nonneg ..)
      (p.px_nonneg ..) (frac_nonneg _) (frac_lt_one _).le (frac_nonneg _) (frac_lt_one _).le
  · exact blend_exact_le (hpx _ _) (hpx _ _) (hpx _ _) (hpx _ _) (frac_nonneg _)
      (frac_lt_one _).le (frac_nonneg _) (frac_lt_one _).le

theorem resizeBuffer_bilinear_samplesAtMost {pr : Config.Params} (hpr : pr.DecidedReals)
    {B : PixelBuffer} {m : Nat} (h : B.samplesAtMost m) (tw th : Nat) :
    (resizeBuffer pr B tw th .bilinear).samplesAtMost m :=
  resizeBuffer_samplesAtMost fun p hp _ _ =>
    bilinearAt_bounds hpr (PixelBuffer.samplesAtMost_iff.mp h p hp) _ _ _ _

theorem blockyPlane_le {w h m : Nat} {sensel : Nat → Nat → Sample}
    (hs : ∀ x y, (sensel x y).toNat ≤ m) : ∀ v ∈ blockyPlane w h sensel, v.toNat ≤ m := by
  refine Plane.tabulate_le fun i _ => ?_
  split
  · exact hs _ _
  · exact Nat.zero_le m

/-- The intermediate holds samples of its source and zeros (R122, R123). -/
theorem blocky_samplesAtMost {B : PixelBuffer} {m : Nat} (h : B.samplesAtMost m) :
    (blocky B).samplesAtMost m := by
  have hS : ∀ v ∈ B.planes.plane 0, v.toNat ≤ m := by
    refine PixelBuffer.samplesAtMost_iff.mp h _ ?_
    cases B.planes <;> simp [Planes.plane, Planes.toList]
  rw [PixelBuffer.samplesAtMost_iff]
  simp only [blocky, Planes.toList, List.forall_mem_cons]
  refine ⟨blockyPlane_le fun x y => ?_, blockyPlane_le fun x y => ?_, blockyPlane_le fun x y => ?_,
    fun _ hp => nomatch hp⟩
  · exact Plane.sample_le hS _
  · unfold greenSensel
    split <;> exact Plane.sample_le hS _
  · exact Plane.sample_le hS _

/-! ## The colour commands -/

/-- The colour formulae end in `clip8` (R137). -/
theorem mixPlane_le_255 (B : PixelBuffer) (f : Int → Int → Int → Int) :
    ∀ v ∈ mixPlane B fun a b c => clip8 (f a b c), v.toNat ≤ 255 :=
  Plane.tabulate_le fun _ _ => sampleOfInt_toNat_le (clip8_bounds _).1 (clip8_bounds _).2

theorem mixBuffer_samplesAtMost_255 (B : PixelBuffer) (f g h : Int → Int → Int → Int) :
    (mixBuffer B (fun a b c => clip8 (f a b c)) (fun a b c => clip8 (g a b c))
      fun a b c => clip8 (h a b c)).samplesAtMost 255 := by
  rw [PixelBuffer.samplesAtMost_iff]
  simp only [mixBuffer_planes, Planes.toList, List.forall_mem_cons]
  exact ⟨mixPlane_le_255 B f, mixPlane_le_255 B g, mixPlane_le_255 B h, fun _ hp => nomatch hp⟩

theorem rgbToYcc_samplesAtMost_255 (sh : Config.Shift) (B : PixelBuffer) :
    (rgbToYcc sh B).samplesAtMost 255 := mixBuffer_samplesAtMost_255 B _ _ _

theorem yccToRgb_samplesAtMost_255 (sh : Config.Shift) (B : PixelBuffer) :
    (yccToRgb sh B).samplesAtMost 255 := mixBuffer_samplesAtMost_255 B _ _ _

/-! ## The buffer a command writes (R15) -/

/-- A command that ends without a fault and has a destination leaves there what it writes. -/
theorem Ends.writes {i : Instr} {s t : State} {d : Slot} (h : Ends s i t) (ht : t.status ≠ .faulted)
    (hd : i.slotWritten = some d) : Writes s i (t.slot d) := by
  cases h with
  | raised f info => exact absurd (s.raise_status f info) ht
  | wrote hd' hx =>
    cases hd'.symm.trans hd
    rwa [State.advance_slot, State.setSlot_slot_same]
  | packed _ _ => cases hd
  | halted => cases hd

/-- Settles O16: unit by unit, by what the command wrote. -/
theorem commandsKeepSamplesInRange : Obligations.CommandsKeepSamplesInRange := by
  intro i s t d B' _ _ _ h ht hd hB'
  have hw := (Ends.of_exec h).writes ht hd
  rw [hB'] at hw
  cases hw with
  | unpack1 htests | unpack3 htests =>
    obtain ⟨-, -, -, -, hbig⟩ := htests
    exact State.unpacked_inRange hbig
  | resizeBc => exact resizeBuffer_bicubic_inRange _ _ _ _
  | demosaicBc => exact resizeBuffer_bicubic_inRange _ _ _ _
  | resizeBl hs =>
    exact fun hpr hin => resizeBuffer_bilinear_samplesAtMost hpr (hin _ hs) _ _
  | demosaicBl hs =>
    exact fun hpr hin =>
      resizeBuffer_bilinear_samplesAtMost hpr (blocky_samplesAtMost (hin _ hs)) _ _
  | rgb2ycc => exact rgbToYcc_samplesAtMost_255 _ _
  | ycc2rgb => exact yccToRgb_samplesAtMost_255 _ _

end Sys2Proof.Machine
end

section
/-! The invariant of the machine and the step: an operand the decoder answers fits its field, a written
buffer is legal, and each way a step can end keeps the invariant's three parts (`10_state.md` R11 to
R20, `20_memory.md` R30, R38). -/

namespace Sys2Proof

/-! ## What the decoder answers (R51, R55) -/

theorem fieldAt_fits (C : Command) (lo width : Nat) : fits width (fieldAt C lo width) :=
  BitVec.isLt _

theorem fieldsOf_fit (C : Command) : (fieldsOf C).fit :=
  ⟨fieldAt_fits .., fieldAt_fits .., fieldAt_fits .., fieldAt_fits .., fieldAt_fits ..,
    fieldAt_fits .., fieldAt_fits .., fieldAt_fits ..⟩

theorem Row.instr_operandsFit (r : Row) {f : Fields} (hf : f.fit) : (r.instr f).operandsFit = true := by
  obtain ⟨-, -, -, hImm, hHi, hLo, hAddr, hLen⟩ := hf
  cases r with
  | unpack1 | unpack3 => exact decide_eq_true ⟨hLo, hHi, hImm, hAddr, hLen⟩
  | pack => exact decide_eq_true hAddr
  | resizeBc | resizeBl => exact decide_eq_true ⟨hLo, hHi⟩
  | demosaicBc | demosaicBl | rgb2ycc | ycc2rgb | free | halt => rfl

/-- The slots of the command are the slot fields its opcode uses (R53, R55 test 2). -/
theorem mem_slots_rowOf {f : Fields} {k : Slot} (hk : k ∈ ((rowOf f).instr f).slots) :
    (usesD f.op = true ∧ k = slotOf f.d) ∨ (usesS f.op = true ∧ k = slotOf f.s) := by
  unfold rowOf at hk
  split_ifs at hk <;> simp_all [Row.instr, Instr.slots, usesD, usesS]

theorem slotOf_lt {v n : Nat} (h : v < n) : (slotOf v).val < n :=
  Nat.lt_of_le_of_lt (Nat.mod_le v 16) h

/-- What is known of a command that decodes: it is the selected row's, and its slot fields passed
test 2 (R55). -/
theorem decode_ok {nbuf : Nat} {C : Command} {i : Instr} (h : decode nbuf C = .ok i) :
    i = (rowOf (fieldsOf C)).instr (fieldsOf C) ∧
    (usesD (fieldsOf C).op = true → (fieldsOf C).d < nbuf) ∧
    (usesS (fieldsOf C).op = true → (fieldsOf C).s < nbuf) := by
  simp only [decode] at h
  split_ifs at h with _ hslot
  cases h
  exact ⟨rfl, fun hu => by_contra fun hn => hslot (.inl ⟨hu, not_lt.mp hn⟩),
    fun hu => by_contra fun hn => hslot (.inr ⟨hu, not_lt.mp hn⟩)⟩

/-- R51, R55: a command that decodes is well formed. -/
theorem decode_wellFormed {nbuf : Nat} {C : Command} {i : Instr} (h : decode nbuf C = .ok i) :
    i.WellFormed nbuf := by
  obtain ⟨rfl, hd, hs⟩ := decode_ok h
  refine Bool.and_eq_true_iff.mpr ⟨Row.instr_operandsFit _ (fieldsOf_fit C), ?_⟩
  refine List.all_eq_true.mpr fun k hk => decide_eq_true ?_
  rcases mem_slots_rowOf hk with ⟨hu, rfl⟩ | ⟨hu, rfl⟩
  · exact slotOf_lt (hd hu)
  · exact slotOf_lt (hs hu)

theorem Instr.slotWritten_mem_slots {i : Instr} {d : Slot} (h : i.slotWritten = some d) :
    d ∈ i.slots := by
  cases i with
  | pack | halt => cases h
  | _ => cases h; exact List.mem_cons_self

theorem Instr.WellFormed.slotWritten_lt {nbuf : Nat} {i : Instr} (hi : i.WellFormed nbuf) {d : Slot}
    (hd : i.slotWritten = some d) : d.val < nbuf := by
  have := List.all_eq_true.mp (Bool.and_eq_true_iff.mp hi).2 d (Instr.slotWritten_mem_slots hd)
  simpa using this

end Sys2Proof

namespace Sys2Proof.Machine

/-! ## Written buffers are legal (R11, R15, R16) -/

/-- R16 from the range R15 gives: with `maxval` at most 255 the samples are at most 255. -/
theorem PixelBuffer.InRange.samplesAtMost_255 {B : PixelBuffer} (h : B.InRange)
    (hm : B.maxval ≤ 255) : B.samplesAtMost 255 :=
  PixelBuffer.samplesAtMost_iff.mpr fun p hp v hv =>
    (PixelBuffer.samplesAtMost_iff.mp h p hp v hv).trans hm

theorem State.unpacked_legal {s : State} {c : Format} {w h maxval addr : Nat}
    (ht : s.UnpackPasses c w h maxval addr) (hm : maxval ≤ Config.maxvalMax) :
    (s.unpacked c w h maxval addr).Legal s.params.slotCap := by
  obtain ⟨hw, hh, h0, hcap, hbig⟩ := ht
  refine ⟨hw, hh, ⟨Nat.pos_of_ne_zero h0, hm⟩, fun p hp => ?_, hcap,
    (State.unpacked_inRange hbig).samplesAtMost_255⟩
  obtain ⟨k, -, rfl⟩ := State.mem_unpacked_planes hp
  exact Plane.tabulate_length _ _

/-- The samples of a resized buffer, by either filter, meet R16 where the source's do. -/
theorem resizeBuffer_samplesAtMost_255 {pr : Config.Params} (hpr : pr.DecidedReals) {B : PixelBuffer}
    (h : B.maxval ≤ 255 → B.samplesAtMost 255) (tw th : Nat) (m : Filter) (hm : B.maxval ≤ 255) :
    (resizeBuffer pr B tw th m).samplesAtMost 255 := by
  cases m with
  | bicubic => exact (resizeBuffer_bicubic_inRange pr B tw th).samplesAtMost_255 hm
  | bilinear => exact resizeBuffer_bilinear_samplesAtMost hpr (h hm) tw th

theorem resizeBuffer_legal {pr : Config.Params} (hpr : pr.DecidedReals) {B : PixelBuffer} {tw th : Nat}
    (htw : 1 ≤ tw ∧ tw ≤ Config.dimMax) (hth : 1 ≤ th ∧ th ≤ Config.dimMax)
    (hcap : tw * th ≤ pr.slotCap) (hmax : 1 ≤ B.maxval ∧ B.maxval ≤ Config.maxvalMax)
    (h : B.maxval ≤ 255 → B.samplesAtMost 255) (m : Filter) :
    (resizeBuffer pr B tw th m).Legal pr.slotCap := by
  refine ⟨htw, hth, hmax, ?_, hcap, resizeBuffer_samplesAtMost_255 hpr h tw th m⟩
  rw [resizeBuffer_planes, Planes.toList_map, List.forall_mem_map]
  exact fun p _ => resizePlane_length ..

theorem demosaicBuffer_legal {pr : Config.Params} (hpr : pr.DecidedReals) {B : PixelBuffer}
    (h : B.Legal pr.slotCap) (m : Filter) : (demosaicBuffer pr B m).Legal pr.slotCap := by
  obtain ⟨hw, hh, hmax, -, hcap, h255⟩ := h
  exact resizeBuffer_legal (B := blocky B) hpr hw hh hcap hmax
    (fun hm => blocky_samplesAtMost (h255 hm)) m

theorem mixBuffer_legal {cap : Nat} {B : PixelBuffer} (h : B.Legal cap) {f g k : Int → Int → Int → Int}
    (h255 : (mixBuffer B f g k).samplesAtMost 255) : (mixBuffer B f g k).Legal cap := by
  obtain ⟨hw, hh, hmax, -, hcap, -⟩ := h
  refine ⟨hw, hh, hmax, ?_, hcap, fun _ => h255⟩
  simp [Planes.toList]

theorem State.SlotsLegal.buffer_legal {s : State} (h : s.SlotsLegal) {k : Slot} {B : PixelBuffer}
    (hB : s.slot k = .full B) : B.Legal s.params.slotCap := by
  have := (h k).1
  rwa [hB] at this

/-- What a command writes into its slot is legal. -/
theorem Writes.legal {s : State} {i : Instr} {x : SlotValue} (h : Writes s i x)
    (hpr : s.params.DecidedReals) (hs : s.SlotsLegal) (hi : i.operandsFit = true) :
    x.Legal s.params.slotCap := by
  cases h with
  | unpack1 ht | unpack3 ht =>
    obtain ⟨-, -, hm, -, -⟩ := of_decide_eq_true hi
    exact State.unpacked_legal ht (Nat.le_of_lt_succ hm)
  | resizeBc hB ht | resizeBl hB ht =>
    obtain ⟨-, -, hmax, -, -, h255⟩ := hs.buffer_legal hB
    obtain ⟨htw, hth, hcap⟩ := ht
    exact resizeBuffer_legal hpr htw hth hcap hmax h255 _
  | demosaicBc hB | demosaicBl hB => exact demosaicBuffer_legal hpr (hs.buffer_legal hB) _
  | rgb2ycc hB => exact mixBuffer_legal (hs.buffer_legal hB) (rgbToYcc_samplesAtMost_255 _ _)
  | ycc2rgb hB => exact mixBuffer_legal (hs.buffer_legal hB) (yccToRgb_samplesAtMost_255 _ _)
  | free => trivial

/-! ## The three parts of the invariant, operation by operation -/

theorem State.SlotsLegal.setSlot {s : State} (h : s.SlotsLegal) {d : Slot} (hd : d.val < s.params.nbuf)
    {x : SlotValue} (hx : x.Legal s.params.slotCap) : (s.setSlot d x).SlotsLegal := by
  intro k
  by_cases hk : k = d
  · subst hk
    rw [State.setSlot_slot_same]
    exact ⟨hx, fun hn => absurd hd (not_lt.mpr hn)⟩
  · rw [State.setSlot_slot_ne s hk]
    exact h k

theorem State.StoresLegal.memWrite {s : State} (h : s.StoresLegal) {addr : Nat} {bs : List Byte}
    (hm : s.inMemory addr bs.length) : (s.memWrite addr bs).StoresLegal := by
  obtain ⟨hmem, hcmd, hmemLt, hcmdLt⟩ := h
  exact ⟨Cells.setMany_wf hmem addr bs, hcmd, Cells.setMany_keys_lt hmemLt bs hm, hcmdLt⟩

theorem Cause.code_bounds (f : Cause) : f.code ≠ 0 ∧ f.code.toNat ≤ 9 := by cases f <;> decide

/-- A fault's code is not 0, and `raise` leaves `pc` alone. -/
theorem State.SequencerLegal.raise {s : State} (h : s.SequencerLegal) (f : Cause) (info : Nat) :
    (s.raise f info).SequencerLegal := by
  obtain ⟨hpc, -, -, -⟩ := h
  obtain ⟨h0, h9⟩ := f.code_bounds
  exact ⟨hpc, ⟨fun _ => rfl, fun _ => h0⟩, h9, fun h => absurd h h0⟩

/-- Below `NCMD` the 16-bit `pc + 1` does not wrap (R17). -/
theorem State.advance_pc_toNat {s : State} (hpc : s.pc.toNat < s.params.ncmd) :
    s.advance.pc.toNat = s.pc.toNat + 1 := by
  obtain ⟨-, hlt⟩ := s.params.ncmd_bounds
  rw [State.advance_pc, BitVec.toNat_add, show (1 : BitVec 16).toNat = 1 from rfl]
  omega

theorem State.SequencerLegal.advance {s : State} (h : s.SequencerLegal)
    (hpc : s.pc.toNat < s.params.ncmd) : s.advance.SequencerLegal := by
  obtain ⟨-, hrest⟩ := h
  refine ⟨?_, hrest⟩
  rw [State.advance_pc_toNat hpc]
  exact hpc

theorem State.SequencerLegal.halt {s : State} (h : s.SequencerLegal) (hs : s.status ≠ .faulted) :
    ({ s with status := .halted } : State).SequencerLegal := by
  obtain ⟨hpc, hfault, h9, h0⟩ := h
  exact ⟨hpc, ⟨fun he => absurd (hfault.mp he) hs, fun he => nomatch he⟩, h9, h0⟩

/-! ## The invariant -/

theorem State.Inv.raise {s : State} (h : s.Inv) (f : Cause) (info : Nat) : (s.raise f info).Inv := by
  obtain ⟨hslots, hstores, hseq⟩ := h
  exact ⟨hslots, hstores, hseq.raise f info⟩

/-- However a fetched command ends, it keeps the invariant. -/
theorem Ends.keeps_inv {s t : State} {i : Instr} (h : Ends s i t) (hpr : s.params.DecidedReals)
    (hs : s.Inv) (hi : i.WellFormed s.params.nbuf) (hst : s.status ≠ .faulted)
    (hpc : s.pc.toNat < s.params.ncmd) : t.Inv := by
  obtain ⟨hslots, hstores, hseq⟩ := hs
  cases h with
  | raised f info => exact ⟨hslots, hstores, hseq.raise f info⟩
  | wrote hd hx =>
    have hlegal := hx.legal hpr hslots (Bool.and_eq_true_iff.mp hi).1
    exact ⟨hslots.setSlot (hi.slotWritten_lt hd) hlegal, hstores, hseq.advance hpc⟩
  | packed _ hm => exact ⟨hslots, hstores.memWrite hm, hseq.advance hpc⟩
  | halted => exact ⟨hslots, hstores, hseq.halt hst⟩

/-- Settles O12: by the ways a step can end; a command it runs has been decoded, so it is well formed. -/
theorem stepKeepsInvariant : Obligations.StepKeepsInvariant := by
  intro s t hpr hs h
  rcases step_cases s with ⟨-, e⟩ | ⟨-, f, info, e⟩ | ⟨hr, hpc, i, hi, e⟩
  · cases e.symm.trans h
    exact hs
  · cases e.symm.trans h
    exact hs.raise f info
  · have hst : s.status ≠ .faulted := by rw [hr]; decide
    exact (Ends.of_exec (e.symm.trans h)).keeps_inv hpr hs (decode_wellFormed hi) hst hpc

end Sys2Proof.Machine
end

section
/-! What the commands leave of the two memories: only `PACK` writes the byte memory, inside the payload
it stores (`20_memory.md` R30, R73), and nothing writes the command store (R42). -/

namespace Sys2Proof.Machine

/-! ## A read looks at its own memory only -/

theorem State.readByte_of_mem_eq {s t : State} (h : t.mem = s.mem) (a : Nat) :
    t.readByte a = s.readByte a := by
  rw [State.readByte, h, State.readByte]

theorem State.readCommand_of_cmd_eq {s t : State} (h : t.cmd = s.cmd) (j : Nat) :
    t.readCommand j = s.readCommand j := by
  rw [State.readCommand, h, State.readCommand]

/-! ## The byte memory (R30, R73) -/

theorem PixelBuffer.payload_length_eq_payloadBytes (B : PixelBuffer) :
    B.payload.length = B.payloadBytes :=
  B.payload_length

theorem Ends.mem_kept {s t : State} {i : Instr} (h : Ends s i t)
    (hi : ∀ src addr, i ≠ .pack src addr) : t.mem = s.mem := by
  cases h with
  | raised f info => exact s.raise_mem f info
  | wrote _ _ => rfl
  | packed _ _ => exact absurd rfl (hi _ _)
  | halted => rfl

/-- `PACK` writes no slot and does not halt: it raises a fault or stores the payload of its source. -/
theorem Ends.pack_cases {s t : State} {src : Slot} {addr : Nat} (h : Ends s (.pack src addr) t) :
    (∃ f info, t = s.raise f info) ∨
    (∃ B, s.slot src = .full B ∧ t = (s.memWrite addr B.payload).advance) := by
  cases h with
  | raised f info => exact .inl ⟨f, info, rfl⟩
  | wrote hd _ => cases hd
  | packed hs _ => exact .inr ⟨_, hs, rfl⟩

theorem State.pack_readByte_outside (s : State) {addr a : Nat} {B : PixelBuffer}
    (h : a < addr ∨ addr + B.payloadBytes ≤ a) :
    (s.memWrite addr B.payload).advance.readByte a = s.readByte a := by
  rw [State.advance_readByte]
  exact s.memWrite_readByte_outside addr a _ (by rwa [B.payload_length_eq_payloadBytes])

/-- Settles O25: by the ways a command can end, and the two `PACK` has among them. -/
theorem onlyPackWritesMemory : Obligations.OnlyPackWritesMemory := by
  refine ⟨fun i s t hi h => ?_, fun src addr s t h => ?_⟩
  · have hmem := (Ends.of_exec h).mem_kept hi
    exact ⟨hmem, State.readByte_of_mem_eq hmem⟩
  · rcases (Ends.of_exec h).pack_cases with ⟨f, info, rfl⟩ | ⟨B, hB, rfl⟩
    · exact ⟨fun a _ => s.raise_readByte f info a,
        fun _ _ => ⟨s.raise_mem f info, s.raise_readByte f info⟩⟩
    · exact ⟨fun a ha => s.pack_readByte_outside (ha B hB), fun hs ht => absurd ht hs⟩

/-! ## The command store (R42) -/

theorem Effect.cmd_kept {s t : State} (h : Effect s t) : t.cmd = s.cmd := by
  cases h with
  | raised f info => exact s.raise_cmd f info
  | slotWritten d x => rfl
  | bytesWritten addr bs _ => rfl
  | stopped => rfl

theorem step_cmd_kept {s t : State} (h : step s = .next t) : t.cmd = s.cmd := by
  rcases step_cases s with ⟨-, e⟩ | ⟨-, f, info, e⟩ | ⟨-, -, i, -, e⟩
  · cases e.symm.trans h
    rfl
  · cases e.symm.trans h
    exact s.raise_cmd f info
  · exact (Effect.of_exec (e.symm.trans h)).cmd_kept

/-- Settles O26: no effect of a command and no step touches `cmd`, and a `PACK` that does not fault is
one `memWrite` and one `advance`. -/
theorem noCommandWritesCommandStore : Obligations.NoCommandWritesCommandStore := by
  refine ⟨fun i s t h => ?_, fun s t h => ?_, fun src addr s t h _ ht => ?_⟩
  · have hcmd := (Effect.of_exec h).cmd_kept
    exact ⟨hcmd, State.readCommand_of_cmd_eq hcmd⟩
  · have hcmd := step_cmd_kept h
    exact ⟨hcmd, State.readCommand_of_cmd_eq hcmd⟩
  · rcases (Ends.of_exec h).pack_cases with ⟨f, info, rfl⟩ | ⟨B, -, rfl⟩
    · exact absurd (s.raise_status f info) ht
    · rfl

end Sys2Proof.Machine
end

section
/-! Commands, their fields and their words: a mask read field by field, what a row of the table asks of
the fields, and the decoder as the inverse of the encoder (`30_encoding.md` R50 to R57). -/

namespace Sys2Proof

/-! ## Commands and their fields (R50, R51) -/

/-- Taking the fields of a command apart loses no bit: assembled again they are the command. -/
theorem command_fieldsOf (C : Command) : (fieldsOf C).command = C := by
  refine BitVec.eq_of_toNat_eq ?_
  rw [Fields.command_toNat _ (fieldsOf_fit C)]
  simp only [fieldsOf, fieldAt_eq]
  have := C.isLt
  omega

theorem fieldsOf_inj {C D : Command} : fieldsOf C = fieldsOf D ↔ C = D :=
  (Function.LeftInverse.injective command_fieldsOf).eq_iff

/-- The fields of two commands, ANDed field by field. -/
def Fields.land (f g : Fields) : Fields where
  op    := f.op &&& g.op
  d     := f.d &&& g.d
  s     := f.s &&& g.s
  imm16 := f.imm16 &&& g.imm16
  hi16  := f.hi16 &&& g.hi16
  lo16  := f.lo16 &&& g.lo16
  addr  := f.addr &&& g.addr
  len   := f.len &&& g.len

theorem fieldAt_and (C M : Command) (lo width : Nat) :
    fieldAt (C &&& M) lo width = fieldAt C lo width &&& fieldAt M lo width := by
  rw [fieldAt, BitVec.extractLsb'_and, BitVec.toNat_and, ← fieldAt, ← fieldAt]

theorem fieldsOf_and (C M : Command) : fieldsOf (C &&& M) = (fieldsOf C).land (fieldsOf M) := by
  simp only [fieldsOf, fieldAt_and, Fields.land]

theorem and_eq_iff_fields {C M P : Command} :
    C &&& M = P ↔ (fieldsOf C).land (fieldsOf M) = fieldsOf P := by
  rw [← fieldsOf_and, fieldsOf_inj]

/-- A field under a mask of ones is the field. -/
theorem Fields.fit.land_ones {f : Fields} (h : f.fit) :
    f.op &&& 0xFF = f.op ∧ f.d &&& 0xF = f.d ∧ f.s &&& 0xF = f.s ∧ f.imm16 &&& 0xFFFF = f.imm16 ∧
    f.hi16 &&& 0xFFFF = f.hi16 ∧ f.lo16 &&& 0xFFFF = f.lo16 ∧ f.addr &&& 0xFFFFFFFF = f.addr ∧
    f.len &&& 0xFFFFFFFF = f.len := by
  obtain ⟨hOp, hD, hS, hImm, hHi, hLo, hAddr, hLen⟩ := h
  have ones {width v : Nat} (hv : fits width v) := Nat.and_two_pow_sub_one_of_lt_two_pow hv
  exact ⟨ones hOp, ones hD, ones hS, ones hImm, ones hHi, ones hLo, ones hAddr, ones hLen⟩

theorem slotOf_val {v : Nat} (h : fits 4 v) : (slotOf v).val = v := Nat.mod_eq_of_lt h

@[simp] theorem slotOf_coe (k : Slot) : slotOf k.val = k := Fin.ofNat_val_eq_self k

/-- Bits `[3:2]` of a slot field are 0 where it names one of four slots (R53). -/
theorem and_highSlotBits_eq_zero {v : Nat} (h : fits 4 v) : v &&& 0xC = 0 ↔ v < 4 := by
  have : v < 16 := h
  interval_cases v <;> decide

/-! ## What a row asks of the fields (R53, R54) -/

/-- Outside the slot fields a row's mask leaves the fields its operands take, and its pattern is what
the row's command has in all the others. -/
theorem Row.matchesRest_iff_fields (r : Row) (C : Command) :
    r.matchesRest C ↔ fieldsOf C = (r.instr (fieldsOf C)).fields := by
  rw [Row.matchesRest, and_eq_iff_fields]
  obtain ⟨-, hD, hS, -⟩ := fieldsOf_fit C
  have hones := (fieldsOf_fit C).land_ones
  generalize fieldsOf C = f at *
  cases f
  cases r <;> simp [Row.mask, Row.slotFields, Row.pattern, fieldsOf, fieldAt, Fields.land,
    Row.instr, Instr.fields, slotOf_val hD, slotOf_val hS, hones]

/-- The printed masks ask in addition that the row's slot fields name one of four slots. -/
theorem Row.matches_iff (r : Row) (C : Command) :
    r.matches C ↔ r.matchesRest C ∧ (r.instr (fieldsOf C)).WellFormed 4 := by
  rw [Row.matches, Row.matchesRest, and_eq_iff_fields, and_eq_iff_fields, Instr.WellFormed,
    Instr.wellFormed, Row.instr_operandsFit r (fieldsOf_fit C)]
  obtain ⟨-, hD, hS, -⟩ := fieldsOf_fit C
  generalize fieldsOf C = f at *
  cases r <;> simp [Row.mask, Row.slotFields, Row.pattern, fieldsOf, fieldAt, Fields.land,
    Row.instr, Instr.slots, slotOf_val hD, slotOf_val hS, and_highSlotBits_eq_zero hD,
    and_highSlotBits_eq_zero hS, and_assoc, and_comm, and_left_comm]

/-! ## The command of a row and the row of a command -/

theorem rowOf_instr_fields (r : Row) (f : Fields) : rowOf (r.instr f).fields = r := by
  cases r <;> rfl

theorem rowOf_fields_instr (i : Instr) : (rowOf i.fields).instr i.fields = i := by
  cases i <;> simp [rowOf, Instr.fields, Row.instr]

/-- No two rows select the same command: the fields say which row it is. -/
theorem Row.matchesRest.eq_rowOf {r : Row} {C : Command} (h : r.matchesRest C) :
    r = rowOf (fieldsOf C) := by
  rw [(r.matchesRest_iff_fields C).mp h, rowOf_instr_fields]

/-! ## The word of a command (R57) -/

theorem Instr.fields_fit {i : Instr} (h : i.operandsFit = true) : i.fields.fit := by
  cases i <;> simp_all [Instr.operandsFit, Instr.fields, Fields.fit]

theorem fieldsOf_encode {i : Instr} (h : i.operandsFit = true) : fieldsOf (encode i) = i.fields :=
  fieldsOf_command _ (Instr.fields_fit h)

theorem Row.matchesRest_encode {i : Instr} (h : i.operandsFit = true) :
    (rowOf i.fields).matchesRest (encode i) := by
  rw [Row.matchesRest_iff_fields, fieldsOf_encode h, rowOf_fields_instr]

theorem Row.matchesRest.encode_instr {r : Row} {C : Command} (h : r.matchesRest C) :
    encode (r.instr (fieldsOf C)) = C := by
  rw [encode, ← (r.matchesRest_iff_fields C).mp h, command_fieldsOf]

theorem Instr.fields_op_legal (i : Instr) : ¬(i.fields.op < 0x01 ∨ 0x08 < i.fields.op) := by
  cases i <;> simp [Instr.fields]

theorem Instr.fields_channels_legal (i : Instr) :
    ¬(i.fields.op = 0x01 ∧ i.fields.s ≠ 1 ∧ i.fields.s ≠ 3) := by
  cases i <;> simp [Instr.fields]

theorem Instr.WellFormed.fields_slots_legal {nbuf : Nat} {i : Instr} (h : i.WellFormed nbuf) :
    ¬((usesD i.fields.op ∧ nbuf ≤ i.fields.d) ∨ (usesS i.fields.op ∧ nbuf ≤ i.fields.s)) := by
  obtain ⟨-, hslots⟩ := Bool.and_eq_true_iff.mp h
  cases i <;> simp_all [Instr.slots, Instr.fields, usesD, usesS]

/-! ## Decoding and encoding -/

/-- Settles O2: the fields of the word are the command's, they pass the four tests, and the row they
select has the command. -/
theorem decodeOfEncodeIsIdentity : Obligations.DecodeOfEncodeIsIdentity := by
  intro nbuf i h
  obtain ⟨hfit, -⟩ := Bool.and_eq_true_iff.mp h
  simp only [decode, fieldsOf_encode hfit, if_neg i.fields_op_legal, if_neg h.fields_slots_legal,
    if_neg i.fields_channels_legal, if_pos (Row.matchesRest_encode hfit), rowOf_fields_instr]

/-- A command that decodes passed test 4 (R55). -/
theorem decode_matchesRest {nbuf : Nat} {C : Command} {i : Instr} (h : decode nbuf C = .ok i) :
    (rowOf (fieldsOf C)).matchesRest C := by
  simp only [decode] at h
  split_ifs at h with _ _ _ hrest
  exact hrest

/-- Settles O3: the row's operands and its pattern are all the fields there are. -/
theorem encodeOfDecodeIsIdentity : Obligations.EncodeOfDecodeIsIdentity := by
  intro nbuf C i h
  refine ⟨decode_wellFormed h, ?_⟩
  obtain ⟨rfl, -⟩ := decode_ok h
  exact (decode_matchesRest h).encode_instr

/-- Settles O4: a row that matches is the row of the fields, and its command's word is the command. -/
theorem legalCommandMatchesOneRow : Obligations.LegalCommandMatchesOneRow := by
  refine fun C => ⟨fun i h => ?_, fun r h => ?_, fun nbuf i h => ?_⟩
  · have hwf := decode_wellFormed h
    obtain ⟨rfl, -⟩ := decode_ok h
    refine ⟨_, (Row.matches_iff _ C).mpr ⟨decode_matchesRest h, hwf⟩, fun r' h' => ?_⟩
    exact ((r'.matches_iff C).mp h').1.eq_rowOf
  · obtain ⟨hrest, hwf⟩ := (r.matches_iff C).mp h
    simpa only [hrest.encode_instr] using decodeOfEncodeIsIdentity 4 _ hwf
  · exact ⟨_, decode_matchesRest h, fun r' h' => h'.eq_rowOf⟩

/-- Settles O1: by evaluating the decoder on each word. -/
theorem specWordsDecode : Obligations.SpecWordsDecode := by
  unfold Obligations.SpecWordsDecode
  decide

/-! ## The four tests (R54, R55) -/

/-- Behind the first three tests, the fourth asks for the zeros of R54. -/
theorem rowOf_matchesRest_iff_reservedZero {C : Command}
    (hop : ¬((fieldsOf C).op = 0 ∨ 8 < (fieldsOf C).op))
    (hc : ¬((fieldsOf C).op = 1 ∧ (fieldsOf C).s ≠ 1 ∧ (fieldsOf C).s ≠ 3)) :
    (rowOf (fieldsOf C)).matchesRest C ↔ (fieldsOf C).reservedZero = true := by
  rw [Row.matchesRest_iff_fields]
  obtain ⟨-, hD, hS, -⟩ := fieldsOf_fit C
  generalize fieldsOf C = f at *
  obtain ⟨op, d, s, imm16, hi16, lo16, addr, len⟩ := f
  simp only at hop hc hD hS
  have hops : op = 1 ∨ (op = 3 ∨ op = 4) ∨ op = 2 ∨ op = 5 ∨ op = 6 ∨ op = 7 ∨ op = 8 := by omega
  rcases hops with rfl | hmode | hplain
  · rcases (by omega : s = 1 ∨ s = 3) with rfl | rfl <;>
      simp [rowOf, Row.instr, Instr.fields, Fields.reservedZero, slotOf_val hD]
  · rcases Nat.mod_two_eq_zero_or_one imm16 with h | h <;> rcases hmode with rfl | rfl <;>
      simp [rowOf, Row.instr, Instr.fields, Fields.reservedZero, slotOf_val hD, slotOf_val hS, h] <;>
      omega
  · rcases hplain with rfl | rfl | rfl | rfl | rfl <;>
      simp [rowOf, Row.instr, Instr.fields, Fields.reservedZero, slotOf_val hD, slotOf_val hS,
        and_assoc]

theorem slotTest_iff_slotTooLarge {nbuf : Nat} {f : Fields} (hop : ¬(f.op = 0 ∨ 8 < f.op)) :
    ((usesD f.op ∧ nbuf ≤ f.d) ∨ (usesS f.op ∧ nbuf ≤ f.s)) ↔ f.slotTooLarge nbuf := by
  have hD : usesD f.op = true ↔ f.op ≠ 2 ∧ f.op ≠ 8 := by simp [usesD]; omega
  have hS : usesS f.op = true ↔ 2 ≤ f.op ∧ f.op ≤ 6 := by simp [usesS]; omega
  rw [hD, hS, and_assoc, and_assoc]

/-- R55: the decoder as its four tests, the second by the opcodes that have the slot field and the
fourth by the fields of R54. -/
theorem decode_eq_tests (nbuf : Nat) (C : Command) :
    decode nbuf C =
      if (fieldsOf C).op = 0 ∨ 8 < (fieldsOf C).op then .error .opcode
      else if (fieldsOf C).slotTooLarge nbuf then .error .slot
      else if (fieldsOf C).op = 1 ∧ (fieldsOf C).s ≠ 1 ∧ (fieldsOf C).s ≠ 3 then .error .channels
      else if (fieldsOf C).reservedZero then .ok ((rowOf (fieldsOf C)).instr (fieldsOf C))
      else .error .reserved := by
  simp only [decode, Nat.lt_one_iff]
  refine if_ctx_congr .rfl (fun _ => rfl) fun hop => ?_
  refine if_ctx_congr (slotTest_iff_slotTooLarge hop) (fun _ => rfl) fun _ => ?_
  refine if_ctx_congr .rfl (fun _ => rfl) fun hc => ?_
  exact if_ctx_congr (rowOf_matchesRest_iff_reservedZero hop hc) (fun _ => rfl) (fun _ => rfl)

end Sys2Proof

namespace Sys2Proof.Machine

theorem step_of_decode_error {s : State} {e : DecodeError} (hr : s.status = .running)
    (hpc : s.pc.toNat < s.params.ncmd)
    (hd : decode s.params.nbuf (s.readCommand s.pc.toNat) = .error e) :
    step s = .next (s.raise .illegalCommand e.subcode) := by
  refine step_of_fetch_error hr ?_
  simp only [State.fetch, if_neg (not_le.mpr hpc), hd]

theorem step_of_decode_ok {s : State} {i : Instr} (hr : s.status = .running)
    (hpc : s.pc.toNat < s.params.ncmd)
    (hd : decode s.params.nbuf (s.readCommand s.pc.toNat) = .ok i) : step s = exec i s := by
  refine step_of_fetch_ok hr ?_
  simp only [State.fetch, if_neg (not_le.mpr hpc), hd]

/-- Settles O5: by the decoder's tests; the sub-code of each is its place in the order. -/
theorem illegalCommandSubcodes : Obligations.IllegalCommandSubcodes := by
  intro s hr hpc f illegal
  have hd := decode_eq_tests s.params.nbuf (s.readCommand s.pc.toNat)
  split_ifs at hd ⊢
  · exact step_of_decode_error hr hpc hd
  · exact step_of_decode_error hr hpc hd
  · exact step_of_decode_error hr hpc hd
  · exact ⟨_, hd, step_of_decode_ok hr hpc hd⟩
  · exact step_of_decode_error hr hpc hd

end Sys2Proof.Machine
end

section
/-! The payload in the byte memory: the bytes a sample has there, the place of each sample of a buffer
in its payload, and what `PACK` writes and `UNPACK` reads, said sample by sample
(`20_memory.md` R31, R32, R35, `41_raster_pack_unpack.md` R70, R73). -/

namespace Sys2Proof.Machine

/-! ## Positions -/

/-- A position in `n` blocks of `m` is a block and a place in it. -/
theorem exists_block_of_lt_mul {n m q : Nat} (h : q < n * m) : ∃ i < n, ∃ j < m, q = i * m + j := by
  have hm : 0 < m := Nat.pos_of_ne_zero (by rintro rfl; simp at h)
  exact ⟨q / m, (Nat.div_lt_iff_lt_mul hm).mpr h, q % m, Nat.mod_lt q hm, (Nat.div_add_mod' q m).symm⟩

theorem block_lt_mul {n m i j : Nat} (hi : i < n) (hj : j < m) : i * m + j < n * m :=
  calc i * m + j < (i + 1) * m := by rw [Nat.succ_mul]; omega
    _ ≤ n * m := Nat.mul_le_mul_right m hi

/-- Where the pieces all have length `n`, element `j` of piece `i` stands at `i * n + j`. -/
theorem getElem?_flatMap_block {α β : Type} {f : α → List β} {n : Nat} (hf : ∀ x, (f x).length = n)
    {l : List α} {i j : Nat} (hi : i < l.length) (hj : j < n) :
    (l.flatMap f)[i * n + j]? = (f l[i])[j]? := by
  induction l generalizing i with
  | nil => simp at hi
  | cons x xs ih =>
    rw [List.flatMap_cons]
    cases i with
    | zero => simp [List.getElem?_append_left, hf, hj]
    | succ i =>
      have hq : (i + 1) * n + j = n + (i * n + j) := by ring
      rw [hq, List.getElem?_append_right (by rw [hf]; omega), hf, Nat.add_sub_cancel_left,
        ih (by simpa using hi), List.getElem_cons_succ]

/-! ## Planes and formats (R11, R35) -/

theorem Planes.plane_eq_getElem (P : Planes) {k : Nat} (hk : k < P.toList.length) :
    P.plane k = P.toList[k] :=
  List.getD_eq_getElem _ _ hk

theorem Planes.plane_mem {P : Planes} {k : Nat} (hk : k < P.count) : P.plane k ∈ P.toList := by
  rw [← Planes.length_toList] at hk
  exact Planes.plane_eq_getElem P hk ▸ List.getElem_mem hk

theorem PixelBuffer.InRange.sample_le {B : PixelBuffer} (h : B.InRange) {k : Nat}
    (hk : k < B.planes.count) (i : Nat) : ((B.planes.plane k).sample i).toNat ≤ B.maxval :=
  Plane.sample_le (PixelBuffer.samplesAtMost_iff.mp h _ (Planes.plane_mem hk)) i

theorem Format.plane_planes (c : Format) (f : Nat → Plane) {k : Nat} (hk : k < c.channels) :
    (c.planes f).plane k = f k := by
  cases c with
  | single =>
    obtain rfl : k = 0 := Nat.lt_one_iff.mp hk
    rfl
  | three =>
    replace hk : k < 3 := hk
    interval_cases k <;> rfl

theorem Format.planes_congr {c : Format} {f g : Nat → Plane} (h : ∀ k < c.channels, f k = g k) :
    c.planes f = c.planes g := by
  cases c with
  | single => exact congrArg Planes.one (h 0 Nat.one_pos)
  | three =>
    simp only [Format.planes, h 0 (by decide : 0 < 3), h 1 (by decide : 1 < 3), h 2 (by decide : 2 < 3)]

/-- The payload format of a buffer of these planes. -/
def Planes.format : Planes → Format
  | .one _ => .single
  | .three _ _ _ => .three

@[simp] theorem Planes.channels_format (P : Planes) : P.format.channels = P.count := by
  cases P <;> rfl

theorem Planes.planes_format (P : Planes) : P.format.planes P.plane = P := by
  cases P <;> rfl

/-! ## One sample in the byte memory (R31, R32) -/

/-- R32: the bytes of `v`, as a sample of a payload of this `maxval`, stand at the place of sample
number `j` of the payload at `addr`. -/
def State.HoldsSample (s : State) (addr maxval j : Nat) (v : Sample) : Prop :=
  ∀ b < sampleBytes maxval,
    (bytesOfSample maxval v)[b]? = some (s.readByte (addr + (j * sampleBytes maxval + b)))

theorem State.holdsSample_narrow {s : State} {addr maxval j : Nat} {v : Sample} (hm : maxval ≤ 255) :
    s.HoldsSample addr maxval j v ↔ s.readByte (addr + j) = v.extractLsb' 0 8 := by
  simp [State.HoldsSample, bytesOfSample, sampleBytes, hm, eq_comm]

theorem State.holdsSample_wide {s : State} {addr maxval j : Nat} {v : Sample} (hm : ¬maxval ≤ 255) :
    s.HoldsSample addr maxval j v ↔ s.readByte (addr + 2 * j) = v.extractLsb' 8 8 ∧
      s.readByte (addr + (2 * j + 1)) = v.extractLsb' 0 8 := by
  have hsb : sampleBytes maxval = 2 := if_neg hm
  rw [State.HoldsSample, hsb, Nat.forall_lt_succ_right, Nat.forall_lt_succ_right]
  simp [bytesOfSample, hsb, Nat.mul_comm j, eq_comm]

theorem State.payloadSample_narrow {s : State} {addr maxval j : Nat} (hm : maxval ≤ 255) :
    s.payloadSample addr maxval j = (s.readByte (addr + j)).zeroExtend 16 := by
  simp [State.payloadSample, sampleBytes, hm]

theorem State.payloadSample_wide {s : State} {addr maxval j : Nat} (hm : ¬maxval ≤ 255) :
    s.payloadSample addr maxval j = s.readByte (addr + 2 * j) ++ s.readByte (addr + (2 * j + 1)) := by
  simp [State.payloadSample, sampleBytes, hm]

/-- The sample read at a place stands there. -/
theorem State.holdsSample_payloadSample (s : State) (addr maxval j : Nat) :
    s.HoldsSample addr maxval j (s.payloadSample addr maxval j) := by
  by_cases hm : maxval ≤ 255
  · rw [s.holdsSample_narrow hm, s.payloadSample_narrow hm]
    exact (BitVec.eq_of_toNat_eq (by simp; omega)).symm
  · rw [s.holdsSample_wide hm, s.payloadSample_wide hm]
    exact ⟨BitVec.extractLsb'_append_eq_left.symm, BitVec.extractLsb'_append_eq_right.symm⟩

/-- A sample within `maxval` is read where it stands. -/
theorem State.HoldsSample.payloadSample_eq {s : State} {addr maxval j : Nat} {v : Sample}
    (h : s.HoldsSample addr maxval j v) (hv : v.toNat ≤ maxval) :
    s.payloadSample addr maxval j = v := by
  by_cases hm : maxval ≤ 255
  · rw [s.payloadSample_narrow hm, (s.holdsSample_narrow hm).mp h]
    exact BitVec.eq_of_toNat_eq (by simp; omega)
  · obtain ⟨hhi, hlo⟩ := (s.holdsSample_wide hm).mp h
    rw [s.payloadSample_wide hm, hhi, hlo]
    exact BitVec.extractLsb'_append_extractLsb'

/-- Where one sample stands in two memories, its bytes are the same. -/
theorem State.HoldsSample.readByte_eq {s u : State} {addr addr' maxval j b : Nat} {v : Sample}
    (hs : s.HoldsSample addr maxval j v) (hu : u.HoldsSample addr' maxval j v)
    (hb : b < sampleBytes maxval) :
    u.readByte (addr' + (j * sampleBytes maxval + b)) =
      s.readByte (addr + (j * sampleBytes maxval + b)) :=
  Option.some.inj ((hu b hb).symm.trans (hs b hb))

/-- The sample read at a place as the number the claims speak of. -/
theorem State.payloadSample_toNat (s : State) (addr maxval j : Nat) :
    (s.payloadSample addr maxval j).toNat = s.sampleNumber addr maxval j := by
  by_cases hm : maxval ≤ 255
  · rw [s.payloadSample_narrow hm, State.sampleNumber, if_pos hm]
    simp
    omega
  · rw [s.payloadSample_wide hm, State.sampleNumber, if_neg hm, BitVec.toNat_append,
      ← Nat.shiftLeft_add_eq_or_of_lt (BitVec.isLt _), Nat.shiftLeft_eq, Nat.add_assoc]

/-- R70 lines 11 to 14: the test on the samples, in those numbers. -/
theorem State.payloadTooLarge_iff {s : State} {c : Format} {w h maxval addr : Nat} :
    s.payloadTooLarge c w h maxval addr = true ↔
      ∃ j < w * h * c.channels, maxval < s.sampleNumber addr maxval j := by
  simp [State.payloadTooLarge, State.payloadSample_toNat]

/-! ## The payload of a buffer (R35, R73) -/

/-- R35: sample `i` of plane `k` is sample number `i*c + k` of the payload. -/
theorem PixelBuffer.payload_getElem? (B : PixelBuffer) {i k b : Nat} (hi : i < B.width * B.height)
    (hk : k < B.planes.count) (hb : b < sampleBytes B.maxval) :
    B.payload[(i * B.planes.count + k) * sampleBytes B.maxval + b]? =
      (bytesOfSample B.maxval ((B.planes.plane k).sample i))[b]? := by
  have hk' : k < B.planes.toList.length := by rwa [Planes.length_toList]
  have hpos : (i * B.planes.count + k) * sampleBytes B.maxval + b =
      i * (B.planes.count * sampleBytes B.maxval) + (k * sampleBytes B.maxval + b) := by ring
  rw [hpos, PixelBuffer.payload, getElem?_flatMap_block (fun i => ?_) (by simpa using hi) (block_lt_mul hk hb),
    getElem?_flatMap_block (fun p => bytesOfSample_length B.maxval _) hk' hb,
    Planes.plane_eq_getElem _ hk', List.getElem_range]
  simp

/-- R73: after `MemWrite` of a buffer's payload each of its samples stands at its place. -/
theorem State.memWrite_payload_holdsSample (s : State) (addr : Nat) (B : PixelBuffer) {i k : Nat}
    (hi : i < B.width * B.height) (hk : k < B.planes.count) :
    (s.memWrite addr B.payload).HoldsSample addr B.maxval (i * B.planes.count + k)
      ((B.planes.plane k).sample i) := by
  intro b hb
  have hbytes := B.payload_getElem? hi hk hb
  have hlen : (i * B.planes.count + k) * sampleBytes B.maxval + b < B.payload.length := by
    rw [PixelBuffer.payload_length]
    exact block_lt_mul (block_lt_mul hi hk) hb
  rw [s.memWrite_readByte_inside addr _ _ hlen, ← hbytes, List.getElem?_eq_getElem hlen]

end Sys2Proof.Machine
end

section
/-! `UNPACK1`, `UNPACK3` and `PACK`: the order of their tests, what each delivers or writes, and that
each undoes the other (`41_raster_pack_unpack.md` R70 to R73, R77). -/

namespace Sys2Proof.Machine

/-! ## The order of the tests (R70, R73, R175) -/

/-- `Unpack` by the lines of R70: the first test that fails says the fault. -/
theorem unpack_eq_tests (d : Slot) (c : Format) (w h maxval addr len : Nat) (s : State) :
    unpack d c w h maxval addr len s =
      if w = 0 ∨ 32767 < w then trap s .dimensionError 1
      else if h = 0 ∨ 32767 < h then trap s .dimensionError 2
      else if maxval = 0 then trap s .formatError 1
      else if s.params.slotCap < w * h then trap s .allocationError 0
      else if len ≠ payloadLength w h c.channels maxval then trap s .formatError 2
      else if s.params.memBytes < addr + payloadLength w h c.channels maxval then trap s .ioError 0
      else if ∃ j < w * h * c.channels, maxval < s.sampleNumber addr maxval j then
        trap s .formatError 3
      else deliver s d (s.unpacked c w h maxval addr) := by
  simp only [unpack, Nat.lt_one_iff, Config.dimMax, not_le, State.payloadTooLarge_iff]

/-- Settles O31: by the tests of `Unpack`, in their order. -/
theorem unpackFaultOrder : Obligations.UnpackFaultOrder := by
  intro d w h maxval addr len c i s hi
  obtain ⟨c, rfl, hexec⟩ : ∃ f : Format, c = f.channels ∧
      exec i s = unpack d f w h maxval addr len s := by
    rcases hi with ⟨rfl, rfl⟩ | ⟨rfl, rfl⟩
    · exact ⟨.single, rfl, rfl⟩
    · exact ⟨.three, rfl, rfl⟩
  intro n
  have hn : payloadLength w h c.channels maxval = n := rfl
  rw [unpack_eq_tests, hn] at hexec
  split_ifs at hexec ⊢ with hw hh hmax hcap hlen hmem hbig
  · exact hexec
  · exact hexec
  · exact hexec
  · exact hexec
  · exact hexec
  · exact hexec
  · exact fun _ => hexec
  · exact fun h => absurd h hbig

theorem unpack_of_passes {d : Slot} {c : Format} {w h maxval addr len : Nat} {s : State}
    (hw : 1 ≤ w ∧ w ≤ 32767) (hh : 1 ≤ h ∧ h ≤ 32767) (hmax : 1 ≤ maxval)
    (hcap : w * h ≤ s.params.slotCap) (hlen : len = payloadLength w h c.channels maxval)
    (hmem : addr + len ≤ s.params.memBytes)
    (hval : ∀ j < w * h * c.channels, s.sampleNumber addr maxval j ≤ maxval) :
    unpack d c w h maxval addr len s =
      .next (s.setSlot d (.full (s.unpacked c w h maxval addr))).advance := by
  rw [unpack_eq_tests, if_neg (by omega), if_neg (by omega), if_neg (by omega), if_neg (by omega),
    if_neg (not_not.mpr hlen), if_neg (by omega), if_neg, deliver_eq]
  rintro ⟨j, hj, hbig⟩
  exact absurd (hval j hj) (by omega)

/-! ## The buffer `UNPACK` delivers (R70 to R72) -/

theorem State.onlySlotWritten_setSlot_advance (s : State) (d : Slot) (x : SlotValue) :
    s.OnlySlotWritten (s.setSlot d x).advance d :=
  ⟨fun _ hk => s.setSlot_slot_ne hk x, rfl, rfl, fun _ => rfl, rfl, rfl, rfl, rfl, rfl, rfl⟩

/-- Sample `i` of plane `k` is payload sample `i*c + k` (R70 lines 10 to 16). -/
def State.unpackedPlane (s : State) (c : Format) (w h maxval addr k : Nat) : Plane :=
  Plane.tabulate (w * h) fun i => s.payloadSample addr maxval (i * c.channels + k)

theorem State.unpackedPlane_length (s : State) (c : Format) (w h maxval addr k : Nat) :
    (s.unpackedPlane c w h maxval addr k).length = w * h :=
  Plane.tabulate_length _ _

theorem State.unpackedPlane_sample (s : State) (c : Format) {w h i : Nat} (maxval addr k : Nat)
    (hi : i < w * h) : (s.unpackedPlane c w h maxval addr k).sample i =
      s.payloadSample addr maxval (i * c.channels + k) :=
  Plane.tabulate_sample _ _ hi

theorem State.unpacked_eq (s : State) (c : Format) (w h maxval addr : Nat) :
    s.unpacked c w h maxval addr =
      ⟨w, h, maxval, c.planes (s.unpackedPlane c w h maxval addr)⟩ :=
  rfl

theorem State.unpacked_plane (s : State) {c : Format} (w h maxval addr : Nat) {k : Nat}
    (hk : k < c.channels) :
    (s.unpacked c w h maxval addr).planes.plane k = s.unpackedPlane c w h maxval addr k :=
  c.plane_planes (s.unpackedPlane c w h maxval addr) hk

/-- Settles O29. -/
theorem unpack1DeliversBuffer : Obligations.Unpack1DeliversBuffer := by
  intro d w h maxval addr len s hw hh hmax hcap hlen hmem hval
  refine ⟨_, s.unpackedPlane .single w h maxval addr 0,
    unpack_of_passes (c := .single) hw hh hmax hcap hlen hmem ?_,
    s.onlySlotWritten_setSlot_advance d _, s.setSlot_slot_same d _,
    s.unpackedPlane_length .., fun i hi => ?_⟩
  · simpa [Format.channels] using hval
  · rw [s.unpackedPlane_sample _ _ _ _ hi, s.payloadSample_toNat]
    simp [Format.channels]

/-- Settles O30. -/
theorem unpack3DeliversBuffer : Obligations.Unpack3DeliversBuffer := by
  intro d w h maxval addr len s hw hh hmax hcap hlen hmem hval
  have hsample (k i : Nat) (hi : i < w * h) : ((s.unpackedPlane .three w h maxval addr k).sample i).toNat =
      s.sampleNumber addr maxval (3 * i + k) := by
    rw [s.unpackedPlane_sample _ _ _ _ hi, s.payloadSample_toNat, Format.channels, Nat.mul_comm i]
  exact ⟨_, _, _, _, unpack_of_passes (c := .three) hw hh hmax hcap hlen hmem hval,
    s.onlySlotWritten_setSlot_advance d _, s.setSlot_slot_same d _,
    s.unpackedPlane_length .., s.unpackedPlane_length .., s.unpackedPlane_length ..,
    fun i hi => ⟨hsample 0 i hi, hsample 1 i hi, hsample 2 i hi⟩⟩

/-! ## What `PACK` writes (R73) -/

/-- Settles O33. -/
theorem packFaultOrder : Obligations.PackFaultOrder := by
  refine fun src addr s => ⟨fun hs => withSource_empty hs _, fun B hs hmem => ?_⟩
  have hout : ¬s.inMemory addr (payloadLength B.width B.height B.planes.count B.maxval) :=
    not_le.mpr hmem
  exact (withSource_full hs _).trans (if_pos hout)

theorem exec_pack_of_fits {s : State} {src : Slot} {addr : Nat} {B : PixelBuffer}
    (hs : s.slot src = .full B) (hmem : addr + B.payloadBytes ≤ s.params.memBytes) :
    exec (.pack src addr) s = .next (s.memWrite addr B.payload).advance := by
  have hin : s.inMemory addr (payloadLength B.width B.height B.planes.count B.maxval) := hmem
  exact (withSource_full hs _).trans (if_neg (not_not.mpr hin))

/-- Settles O32: by the places of the samples in the payload. -/
theorem packWritesPayload : Obligations.PackWritesPayload := by
  intro src addr s B hs hmem
  refine ⟨_, exec_pack_of_fits hs hmem, fun i hi k hk => ?_, fun a ha => s.pack_readByte_outside ha,
    rfl, rfl, rfl, rfl, rfl, rfl, rfl, rfl⟩
  have hold := s.memWrite_payload_holdsSample addr B hi hk
  intro v j
  simp only [State.advance_readByte]
  split_ifs with hm
  · rw [(State.holdsSample_narrow hm).mp hold, BitVec.extractLsb'_toNat]
    rfl
  · obtain ⟨hhi, hlo⟩ := (State.holdsSample_wide hm).mp hold
    rw [hhi, Nat.add_assoc, hlo, BitVec.extractLsb'_toNat, BitVec.extractLsb'_toNat, Nat.shiftRight_eq_div_pow]
    exact ⟨Nat.mod_eq_of_lt (by omega), rfl⟩

/-! ## `PACK` and `UNPACK` undo each other (R77) -/

theorem exec_unpackCommand (B : PixelBuffer) (d : Slot) (addr len : Nat) (s : State) :
    exec (B.unpackCommand d addr len) s =
      unpack d B.planes.format B.width B.height B.maxval addr len s := by
  obtain ⟨w, ht, maxval, P⟩ := B
  cases P <;> rfl

/-- Where a legal buffer's samples are the samples of a payload, `Unpack` builds the buffer of it. -/
theorem PixelBuffer.Legal.unpacked_eq {s : State} {B : PixelBuffer} {addr cap : Nat} (hB : B.Legal cap)
    (hs : ∀ i < B.width * B.height, ∀ k < B.planes.count,
      s.payloadSample addr B.maxval (i * B.planes.count + k) = (B.planes.plane k).sample i) :
    s.unpacked B.planes.format B.width B.height B.maxval addr = B := by
  obtain ⟨-, -, -, hlength, -, -⟩ := hB
  have hplane : ∀ k < B.planes.format.channels,
      s.unpackedPlane B.planes.format B.width B.height B.maxval addr k = B.planes.plane k := by
    intro k hk
    rw [Planes.channels_format] at hk
    have hl := hlength _ (Planes.plane_mem hk)
    refine Plane.ext_sample ((s.unpackedPlane_length ..).trans hl.symm) fun i hi => ?_
    rw [s.unpackedPlane_length] at hi
    rw [s.unpackedPlane_sample _ _ _ _ hi, Planes.channels_format, hs i hi k hk]
  rw [s.unpacked_eq, Format.planes_congr hplane, Planes.planes_format]

/-- Settles O34: each sample stands at its place after `PACK`, and `UNPACK` reads it there. -/
theorem packThenUnpackRoundTrip : Obligations.PackThenUnpackRoundTrip := by
  intro s src d B addr hs hB hrange hd hmem
  have ⟨hw, hh, hmax, _, hcap, _⟩ := hB
  let t := (s.memWrite addr B.payload).advance
  have hread : ∀ i < B.width * B.height, ∀ k < B.planes.count,
      t.payloadSample addr B.maxval (i * B.planes.count + k) = (B.planes.plane k).sample i :=
    fun i hi k hk => (s.memWrite_payload_holdsSample addr B hi hk).payloadSample_eq (hrange.sample_le hk i)
  have hval : ∀ j < B.width * B.height * B.planes.format.channels,
      t.sampleNumber addr B.maxval j ≤ B.maxval := by
    intro j hj
    rw [Planes.channels_format] at hj
    obtain ⟨i, hi, k, hk, rfl⟩ := exists_block_of_lt_mul hj
    rw [← State.payloadSample_toNat, hread i hi k hk]
    exact hrange.sample_le hk i
  have hlen : B.payloadBytes = payloadLength B.width B.height B.planes.format.channels B.maxval := by
    rw [Planes.channels_format]
    rfl
  have hunpack := unpack_of_passes (d := d) (s := t) hw hh hmax.1 hcap hlen hmem hval
  rw [← exec_unpackCommand, hB.unpacked_eq hread] at hunpack
  refine ⟨t, _, exec_pack_of_fits hs hmem, hunpack, t.setSlot_slot_same d _,
    (t.setSlot_slot_ne hd.symm _).trans hs, rfl, ?_⟩
  exact BitVec.add_assoc s.pc 1 1

/-- Settles O35: the sample `UNPACK` read at a place is the sample `PACK` puts at that place. -/
theorem unpackThenPackReproducesPayload : Obligations.UnpackThenPackReproducesPayload := by
  intro d w h maxval addr len addr' i s t hi _ hexec ht hmem
  obtain ⟨c, hc⟩ : ∃ c : Format, exec i s = unpack d c w h maxval addr len s := by
    rcases hi with rfl | rfl
    · exact ⟨.single, rfl⟩
    · exact ⟨.three, rfl⟩
  rw [hc] at hexec
  rcases unpack_cases d c w h maxval addr len s with ⟨f, info, e⟩ | ⟨e, -, -, -, -, hlen, -, -⟩
  · cases e.symm.trans hexec
    exact absurd (s.raise_status f info) ht
  cases e.symm.trans hexec
  let B := s.unpacked c w h maxval addr
  have hcount : B.planes.count = c.channels := c.count_planes (s.unpackedPlane c w h maxval addr)
  have hbytes : B.payloadBytes = len := by
    rw [hlen, ← hcount]
    rfl
  refine ⟨_, exec_pack_of_fits (B := B) (s.setSlot_slot_same d _) (hbytes ▸ hmem), rfl, fun q hq => ?_⟩
  rw [hlen] at hq
  obtain ⟨j, hj, b, hb, rfl⟩ := exists_block_of_lt_mul hq
  obtain ⟨p, hp, k, hk, rfl⟩ := exists_block_of_lt_mul hj
  have hold := (s.setSlot d (.full B)).advance.memWrite_payload_holdsSample addr' B hp (hcount.symm ▸ hk)
  rw [s.unpacked_plane _ _ _ _ hk, s.unpackedPlane_sample _ _ _ _ hp, hcount] at hold
  exact (s.holdsSample_payloadSample addr maxval _).readByte_eq hold hb

end Sys2Proof.Machine
end

section
/-! Which bytes a command's outcome rests on: `UNPACK` on its payload, every other command but `PACK` on
none (`20_memory.md` R30, `41_raster_pack_unpack.md` R74, R75). -/

namespace Sys2Proof.Machine

/-! ## Two runs over two memories -/

/-- Where `r` goes to a state, `r'` goes to that state with the byte memory `m` in place of its own. -/
def SameOver (m : Memory) (r r' : Result) : Prop := ∀ t, r = .next t → r' = .next { t with mem := m }

theorem SameOver.trap (m : Memory) (s : State) (f : Cause) (info : Nat) :
    SameOver m (trap s f info) (trap { s with mem := m } f info) := by
  rintro t ⟨⟩
  rfl

theorem SameOver.deliver (m : Memory) (s : State) (d : Slot) (B : PixelBuffer) :
    SameOver m (deliver s d B) (deliver { s with mem := m } d B) := by
  rintro t ⟨⟩
  rfl

/-- The same test, then the same over the two memories on either side of it. -/
theorem SameOver.ite {m : Memory} {p : Prop} [Decidable p] {a a' b b' : Result}
    (ha : p → SameOver m a a') (hb : ¬p → SameOver m b b') :
    SameOver m (if p then a else b) (if p then a' else b') := by
  split_ifs with h
  · exact ha h
  · exact hb h

theorem SameOver.withDistinctSource {m : Memory} {s : State} {d src : Slot} {k k' : PixelBuffer → Result}
    (hk : ∀ B, SameOver m (k B) (k' B)) :
    SameOver m (withDistinctSource s d src k) (withDistinctSource { s with mem := m } d src k') := by
  refine .ite (fun _ => .trap m s _ _) fun _ => ?_
  cases hs : s.slot src with
  | empty =>
    rw [withSource_empty hs, withSource_empty (s := { s with mem := m }) hs]
    exact .trap m s _ _
  | full B =>
    rw [withSource_full hs, withSource_full (s := { s with mem := m }) hs]
    exact hk B

/-! ## The commands that look at no byte (R75) -/

theorem resize_sameOver (m : Memory) (f : Filter) (d src : Slot) (tw th : Nat) (s : State) :
    SameOver m (resize f d src tw th s) (resize f d src tw th { s with mem := m }) :=
  .withDistinctSource fun _ =>
    .ite (fun _ => .trap m s _ _) fun _ =>
    .ite (fun _ => .trap m s _ _) fun _ =>
    .ite (fun _ => .trap m s _ _) fun _ => .deliver m s _ _

theorem demosaic_sameOver (m : Memory) (f : Filter) (d src : Slot) (s : State) :
    SameOver m (demosaic f d src s) (demosaic f d src { s with mem := m }) :=
  .withDistinctSource fun _ => .ite (fun _ => .trap m s _ _) fun _ => .deliver m s _ _

theorem colorCommand_sameOver (m : Memory) (g : PixelBuffer → PixelBuffer) (d src : Slot) (s : State) :
    SameOver m (colorCommand g d src s) (colorCommand g d src { s with mem := m }) :=
  .withDistinctSource fun _ => .ite (fun _ => .trap m s _ _) fun _ => .deliver m s _ _

/-- Settles O28: by the body each command shares with its like. -/
theorem otherCommandsIgnoreMemory : Obligations.OtherCommandsIgnoreMemory := by
  intro i s t m hi h
  cases i with
  | unpack1 | unpack3 | pack => exact hi.elim
  | resizeBc d src tw th => exact resize_sameOver m .bicubic d src tw th s t h
  | resizeBl d src tw th => exact resize_sameOver m .bilinear d src tw th s t h
  | demosaicBc d src => exact demosaic_sameOver m .bicubic d src s t h
  | demosaicBl d src => exact demosaic_sameOver m .bilinear d src s t h
  | rgb2ycc d src => exact colorCommand_sameOver m (rgbToYcc s.params.shift) d src s t h
  | ycc2rgb d src => exact colorCommand_sameOver m (yccToRgb s.params.shift) d src s t h
  | free d =>
    cases h
    rfl
  | halt =>
    cases h
    rfl

/-! ## The bytes `UNPACK` reads (R74) -/

/-- A sample of the payload is read from the payload's bytes. -/
theorem State.payloadSample_congr {s u : State} {addr maxval j n : Nat}
    (heq : ∀ a, addr ≤ a → a < addr + n * sampleBytes maxval → u.readByte a = s.readByte a) (hj : j < n) :
    u.payloadSample addr maxval j = s.payloadSample addr maxval j := by
  by_cases hm : maxval ≤ 255
  · have hsb : sampleBytes maxval = 1 := if_pos hm
    rw [hsb] at heq
    rw [u.payloadSample_narrow hm, s.payloadSample_narrow hm, heq (addr + j) (by omega) (by omega)]
  · have hsb : sampleBytes maxval = 2 := if_neg hm
    rw [hsb] at heq
    rw [u.payloadSample_wide hm, s.payloadSample_wide hm, heq (addr + 2 * j) (by omega) (by omega),
      heq (addr + (2 * j + 1)) (by omega) (by omega)]

section
variable {s u : State} {c : Format} {w h maxval addr : Nat}
  (heq : ∀ a, addr ≤ a → a < addr + payloadLength w h c.channels maxval → u.readByte a = s.readByte a)
include heq

theorem State.payloadTooLarge_congr :
    u.payloadTooLarge c w h maxval addr = s.payloadTooLarge c w h maxval addr := by
  rw [Bool.eq_iff_iff, State.payloadTooLarge_iff, State.payloadTooLarge_iff]
  refine exists_congr fun j => and_congr_right fun hj => ?_
  rw [← State.payloadSample_toNat, ← State.payloadSample_toNat, State.payloadSample_congr heq hj]

theorem State.unpacked_congr : u.unpacked c w h maxval addr = s.unpacked c w h maxval addr := by
  have hplane : ∀ k < c.channels,
      u.unpackedPlane c w h maxval addr k = s.unpackedPlane c w h maxval addr k := by
    intro k hk
    refine List.map_congr_left fun i hi => ?_
    exact State.payloadSample_congr heq (block_lt_mul (List.mem_range.mp hi) hk)
  rw [u.unpacked_eq, s.unpacked_eq, Format.planes_congr hplane]

end

theorem unpack_sameOver {m : Memory} {d : Slot} {c : Format} {w h maxval addr len : Nat} {s : State}
    (heq : ∀ a, addr ≤ a → a < addr + len → ({ s with mem := m } : State).readByte a = s.readByte a) :
    SameOver m (unpack d c w h maxval addr len s) (unpack d c w h maxval addr len { s with mem := m }) := by
  refine
    .ite (fun _ => .trap m s _ _) fun _ =>
    .ite (fun _ => .trap m s _ _) fun _ =>
    .ite (fun _ => .trap m s _ _) fun _ =>
    .ite (fun _ => .trap m s _ _) fun _ =>
    .ite (fun _ => .trap m s _ _) fun hlen =>
    .ite (fun _ => .trap m s _ _) fun _ => ?_
  rw [not_not.mp hlen] at heq
  rw [State.payloadTooLarge_congr heq, State.unpacked_congr heq]
  exact .ite (fun _ => .trap m s _ _) fun _ => .deliver m s _ _

/-- Settles O27: both formats read their samples inside the payload whose length the test on `len` gave. -/
theorem unpackReadsOnlyItsPayload : Obligations.UnpackReadsOnlyItsPayload :=
  fun _ _ _ _ _ _ _ _ heq =>
    ⟨unpack_sameOver (c := .single) heq, unpack_sameOver (c := .three) heq⟩

end Sys2Proof.Machine
end

section
/-! The resamplers' arithmetic at the values R3 decides: the kernel and its weights, the coordinate map,
and both samplers at the centre of a pixel (`42_resampler.md` R91, R95, R102, R105). -/

namespace Sys2Proof.Machine

/-! ## The kernel (R91) -/

theorem cubic_exact_zero (A B C D : ℚ) : cubic .exact A B C D 0 = B := by
  rw [cubic_exact]
  ring

/-- Settles O40: each outer weight is a product of factors with known signs. -/
theorem cubicKernelWeights : Obligations.CubicKernelWeights := by
  intro A B C D t
  refine ⟨cubic_exact_zero A B C D, ?_, ?_, ?_, fun h0 h1 => ⟨?_, ?_⟩⟩
  · rw [cubic_exact]
    ring
  · rw [cubic_exact]
    ring
  · ring
  · calc (-t ^ 3 + 2 * t ^ 2 - t) / 2 = -(t * (1 - t) ^ 2 / 2) := by ring
      _ ≤ 0 := neg_nonpos.mpr (by positivity)
  · have h1' : 0 ≤ 1 - t := sub_nonneg.mpr h1.le
    calc (t ^ 3 - t ^ 2) / 2 = -(t ^ 2 * (1 - t) / 2) := by ring
      _ ≤ 0 := neg_nonpos.mpr (by positivity)

/-! ## The coordinate map (R105) -/

/-- The offset coordinate is the quotient `N / D` of R105. -/
theorem sourceCoord_sub_half {x sw tw : Nat} (htw : 0 < tw) :
    sourceCoord .exact x sw tw - 1 / 2 =
      (((2 * x + 1) * sw - tw : Int) : ℚ) / ((2 * tw : Nat) : ℚ) := by
  rw [sourceCoord_exact]
  push_cast
  field_simp

/-- Settles O42: the floor and the fraction of the quotient `N / D`, and the bounds of `N`. -/
theorem sourceCoordinateIntegerForm : Obligations.SourceCoordinateIntegerForm := by
  intro x sw tw hsw hx u N D ix
  have htw : 0 < tw := by omega
  have hu : u - 1 / 2 = (N : ℚ) / ((2 * tw : Nat) : ℚ) := sourceCoord_sub_half htw
  have hD : 0 < D := by omega
  have hix : ix = N / D := by
    calc ix = ⌊(N : ℚ) / ((2 * tw : Nat) : ℚ)⌋ := by rw [← hu]; rfl
      _ = N / D := mod_cast Rat.floor_intCast_div_natCast N (2 * tw)
  refine ⟨?_, hix, ?_, ?_, ?_⟩
  · simp only [u, sourceCoord_exact]
    field_simp
  · have hD' : (D : ℚ) ≠ 0 := mod_cast hD.ne'
    have hcast : ((2 * tw : Nat) : ℚ) = (D : ℚ) := by simp [D]
    calc frac (u - 1 / 2) = (N : ℚ) / D - ix := by rw [frac, ← hcast, ← hu]
      _ = ((N - ix * D : Int) : ℚ) / D := by push_cast; field_simp
  · rw [hix, Int.le_ediv_iff_mul_le hD]
    have : 0 ≤ (2 * x + 1 : Int) * sw := by positivity
    omega
  · rw [hix, ← Int.lt_add_one_iff, sub_add_cancel, Int.ediv_lt_iff_lt_mul hD]
    have : (2 * x + 1 : Int) * sw ≤ 2 * tw * sw :=
      mul_le_mul_of_nonneg_right (by omega) (Int.natCast_nonneg sw)
    calc N ≤ 2 * tw * sw - tw := sub_le_sub_right this _
      _ < 2 * tw * sw := by omega
      _ = sw * D := mul_comm _ _

/-- At the source's own size a pixel's coordinate is its centre (R111). -/
theorem sourceCoord_sameSize (x : Nat) {w : Nat} (hw : 1 ≤ w) :
    sourceCoord .exact x w w = (x : ℚ) + 1 / 2 := by
  rw [sourceCoord_exact]
  field_simp

/-! ## The samplers at a pixel centre (R95, R102) -/

theorem floor_centre_sub_half (x : Nat) : ⌊(x : ℚ) + 1 / 2 - 1 / 2⌋ = x := by
  rw [add_sub_cancel_right, Int.floor_natCast]

theorem frac_centre_sub_half (x : Nat) : frac ((x : ℚ) + 1 / 2 - 1 / 2) = 0 := by
  rw [add_sub_cancel_right]
  exact frac_intCast x

/-- At a centre both passes of the kernel give their second tap. -/
theorem Plane.cubicAt_centre (p : Plane) (w h x y : Nat) :
    p.cubicAt .exact w h ((x : ℚ) + 1 / 2) ((y : ℚ) + 1 / 2) = p.px w h x y := by
  simp only [Plane.cubicAt, offset_exact, fraction_exact, frac_centre_sub_half, cubic_exact_zero,
    Plane.cubicRow]
  exact congrArg₂ (fun i j => (p.px w h i j : ℚ)) (floor_centre_sub_half x) (floor_centre_sub_half y)

theorem blend_exact_zero_zero (p11 p12 p21 p22 : Int) : blend .exact p11 p12 p21 p22 0 0 = p11 := by
  rw [blend_exact]
  ring

theorem sampleBicubic_centre {pr : Config.Params} (hpr : pr.DecidedReals) (p : Plane) (maxval : Nat)
    {w h x y : Nat} (hx : x < w) (hy : y < h) :
    sampleBicubic pr p ((x : ℚ) + 1 / 2) ((y : ℚ) + 1 / 2) w h maxval =
      min (sampleInt (p.sample (y * w + x))) maxval := by
  obtain ⟨har, hro⟩ := hpr
  rw [sampleBicubic, har, hro, p.cubicAt_centre, roundTo_floorHalf, roundHalfUp_intCast,
    p.px_inside hx hy, clamp_eq_max_min _ (Int.natCast_nonneg maxval)]
  exact max_eq_right (le_min (sampleInt_nonneg _) (Int.natCast_nonneg maxval))

theorem bilinearAt_centre {pr : Config.Params} (hpr : pr.DecidedReals) (p : Plane) {w h x y : Nat}
    (hx : x < w) (hy : y < h) :
    bilinearAt pr p ((x : ℚ) + 1 / 2) ((y : ℚ) + 1 / 2) w h = sampleInt (p.sample (y * w + x)) := by
  obtain ⟨har, hro⟩ := hpr
  rw [bilinearAt_exact har, hro, frac_centre_sub_half, frac_centre_sub_half, blend_exact_zero_zero,
    roundTo_floorHalf, roundHalfUp_intCast, floor_centre_sub_half, floor_centre_sub_half,
    p.px_inside hx hy]

/-- Settles O43. -/
theorem samplersInterpolateAtPixelCentres : Obligations.SamplersInterpolateAtPixelCentres :=
  fun _ p _ _ maxval _ _ hpr hx hy =>
    ⟨sampleBicubic_centre hpr p maxval hx hy, bilinearAt_centre hpr p hx hy⟩

end Sys2Proof.Machine
end

section
/-! `RESIZE.BC` and `RESIZE.BL`: the order of their tests, the buffer each delivers, its bounds, and the
resize to the source's own size (`42_resampler.md` R100, R106, R107, R110, R111). -/

namespace Sys2Proof.Machine

/-! ## The order of the tests (R106, R175) -/

/-- `Resize` on distinct slots and a full source, by the lines of R106: the first test that fails says
the fault. -/
theorem resize_eq_tests (m : Filter) {d src : Slot} {s : State} {B : PixelBuffer} (tw th : Nat)
    (hd : d ≠ src) (hs : s.slot src = .full B) :
    resize m d src tw th s =
      if tw = 0 ∨ 32767 < tw then trap s .dimensionError 1
      else if th = 0 ∨ 32767 < th then trap s .dimensionError 2
      else if s.params.slotCap < tw * th then trap s .allocationError 0
      else deliver s d (resizeBuffer s.params B tw th m) := by
  simp only [resize, withDistinctSource_ne s hd, withSource_full hs, Nat.lt_one_iff, Config.dimMax]

/-- `Resize`, its tests passed, delivers the resized buffer and changes nothing else but `pc`. -/
theorem resize_completes (m : Filter) {d src : Slot} {s : State} {B : PixelBuffer} {tw th : Nat}
    (hd : d ≠ src) (hs : s.slot src = .full B) (htw : 1 ≤ tw ∧ tw ≤ 32767) (hth : 1 ≤ th ∧ th ≤ 32767)
    (hcap : tw * th ≤ s.params.slotCap) :
    ∃ t, resize m d src tw th s = .next t ∧ s.OnlySlotWritten t d ∧
      t.slot d = .full (resizeBuffer s.params B tw th m) := by
  rw [resize_eq_tests m tw th hd hs, if_neg (by omega), if_neg (by omega), if_neg (by omega), deliver_eq]
  exact ⟨_, rfl, s.onlySlotWritten_setSlot_advance d _, s.setSlot_slot_same d _⟩

/-- Settles O38: by the tests of `Resize`, in their order. -/
theorem resizeFaultOrder : Obligations.ResizeFaultOrder := by
  intro d src tw th s B i hi hd hs
  obtain ⟨m, hexec⟩ : ∃ m, exec i s = resize m d src tw th s := by
    rcases hi with rfl | rfl
    · exact ⟨.bicubic, rfl⟩
    · exact ⟨.bilinear, rfl⟩
  rw [resize_eq_tests m tw th hd hs] at hexec
  refine ⟨fun hw => ?_, fun hw hh => ?_, fun hw hh hcap => ?_⟩
  · rw [Raises, hexec, if_pos hw]
    rfl
  · rw [Raises, hexec, if_neg (by omega), if_pos hh]
    rfl
  · rw [Raises, hexec, if_neg (by omega), if_neg (by omega), if_pos hcap]
    rfl

/-! ## The buffer `RESIZE` delivers (R106, R107, R110) -/

theorem Planes.plane_map (f : Plane → Plane) {P : Planes} {c : Nat} (hc : c < P.count) :
    (P.map f).plane c = f (P.plane c) := by
  rw [Planes.plane_eq_getElem P (by simpa using hc), Planes.plane_eq_getElem _ (by simpa using hc)]
  simp

theorem resizeBuffer_plane (pr : Config.Params) {B : PixelBuffer} (tw th : Nat) (m : Filter) {c : Nat}
    (hc : c < B.planes.count) :
    (resizeBuffer pr B tw th m).planes.plane c = resizePlane pr m B tw th (B.planes.plane c) :=
  Planes.plane_map _ hc

/-- A value of 0 to 65535 is stored as it is. -/
theorem resizePlane_sampleInt {pr : Config.Params} {m : Filter} {B : PixelBuffer} {p : Plane}
    {tw th x y : Nat} (hx : x < tw) (hy : y < th) (h : 0 ≤ resizeSample pr m B tw th p x y ∧
      resizeSample pr m B tw th p x y ≤ 65535) :
    sampleInt ((resizePlane pr m B tw th p).sample (y * tw + x)) = resizeSample pr m B tw th p x y := by
  rw [resizePlane_sample _ _ _ _ hx hy]
  exact sampleInt_sampleOfInt h.1 h.2

/-- R94: `SampleBicubic` ends in the clamp. -/
theorem resizeSample_bicubic_bounds (pr : Config.Params) (B : PixelBuffer) (tw th : Nat) (p : Plane)
    (x y : Nat) : 0 ≤ resizeSample pr .bicubic B tw th p x y ∧
      resizeSample pr .bicubic B tw th p x y ≤ B.maxval :=
  clamp_bounds _ (Int.natCast_nonneg B.maxval)

/-- `BilinearAt` is not clamped, but blends 16-bit samples (R100). -/
theorem resizeSample_bilinear_bounds {pr : Config.Params} (hpr : pr.DecidedReals) (B : PixelBuffer)
    (tw th : Nat) (p : Plane) (x y : Nat) : 0 ≤ resizeSample pr .bilinear B tw th p x y ∧
      resizeSample pr .bilinear B tw th p x y ≤ 65535 :=
  bilinearAt_bounds (m := 65535) hpr (fun v _ => Nat.le_of_lt_succ v.isLt) _ _ _ _

/-- Settles O36: the clamp keeps every value within 16 bits. -/
theorem resizeBcDeliversBuffer : Obligations.ResizeBcDeliversBuffer := by
  intro d src tw th s B hd hs hmax htw hth hcap
  obtain ⟨t, hexec, hframe, hslot⟩ := resize_completes .bicubic hd hs htw hth hcap
  refine ⟨t, _, hexec, hframe, hslot, rfl, rfl, rfl, Planes.count_map _ _, fun c hc => ?_⟩
  rw [resizeBuffer_plane _ _ _ _ hc]
  refine ⟨resizePlane_length .., fun x hx y hy => resizePlane_sampleInt hx hy ?_⟩
  have hbounds := resizeSample_bicubic_bounds s.params B tw th (B.planes.plane c) x y
  exact hbounds.imp_right fun h => h.trans (mod_cast hmax)

/-- Settles O37: at the decided values the blend stays within 16 bits. -/
theorem resizeBlDeliversBuffer : Obligations.ResizeBlDeliversBuffer := by
  intro d src tw th s B hd hs htw hth hcap
  obtain ⟨t, hexec, hframe, hslot⟩ := resize_completes .bilinear hd hs htw hth hcap
  refine ⟨t, _, hexec, hframe, hslot, rfl, rfl, rfl, Planes.count_map _ _, fun c hc => ?_⟩
  rw [resizeBuffer_plane _ _ _ _ hc]
  exact ⟨resizePlane_length .., fun x hx y hy => ⟨resizePlane_sample _ _ _ _ hx hy, fun hpr =>
    resizePlane_sampleInt hx hy (resizeSample_bilinear_bounds hpr ..)⟩⟩

/-! ## The bounds of `RESIZE.BL` (R100, R110) -/

/-- The blend commutes with taking a number from every corner, since its weights add up to 1. -/
theorem blend_exact_sub (p11 p12 p21 p22 m : Int) (fx fy : ℚ) :
    blend .exact (p11 - m) (p12 - m) (p21 - m) (p22 - m) fx fy =
      blend .exact p11 p12 p21 p22 fx fy - m := by
  simp only [blend_exact]
  push_cast
  ring

/-- R100: the blend lies between its corners, here above a bound of all four. -/
theorem le_blend_exact {p11 p12 p21 p22 m : Int} {fx fy : ℚ} (h11 : m ≤ p11) (h12 : m ≤ p12)
    (h21 : m ≤ p21) (h22 : m ≤ p22) (hx : 0 ≤ fx) (hx1 : fx ≤ 1) (hy : 0 ≤ fy) (hy1 : fy ≤ 1) :
    m ≤ blend .exact p11 p12 p21 p22 fx fy := by
  rw [← sub_nonneg, ← blend_exact_sub]
  exact blend_exact_nonneg (sub_nonneg.mpr h11) (sub_nonneg.mpr h12) (sub_nonneg.mpr h21)
    (sub_nonneg.mpr h22) hx hx1 hy hy1

/-- Bounds of every lookup are bounds of `BilinearAt`. -/
theorem bilinearAt_between {pr : Config.Params} (hpr : pr.DecidedReals) {p : Plane} {w h : Nat}
    {lo hi : Int} (hpx : ∀ i j, lo ≤ p.px w h i j ∧ p.px w h i j ≤ hi) (u v : ℚ) :
    lo ≤ bilinearAt pr p u v w h ∧ bilinearAt pr p u v w h ≤ hi := by
  obtain ⟨har, hro⟩ := hpr
  rw [bilinearAt_exact har, hro, roundTo_floorHalf]
  exact roundHalfUp_bounds
    (le_blend_exact (hpx _ _).1 (hpx _ _).1 (hpx _ _).1 (hpx _ _).1 (frac_nonneg _)
      (frac_lt_one _).le (frac_nonneg _) (frac_lt_one _).le)
    (blend_exact_le (hpx _ _).2 (hpx _ _).2 (hpx _ _).2 (hpx _ _).2 (frac_nonneg _)
      (frac_lt_one _).le (frac_nonneg _) (frac_lt_one _).le)

/-- The lookup in a plane of full length gives one of the plane's samples. -/
theorem Plane.px_eq_mem {p : Plane} {w h : Nat} (hw : 1 ≤ w) (hh : 1 ≤ h) (hl : p.length = w * h)
    (i j : Int) : ∃ v ∈ p, p.px w h i j = sampleInt v := by
  obtain ⟨x, hx, y, hy, hpx⟩ := p.px_index hw hh i j
  have hlt : y * w + x < p.length := by
    rw [hl, mul_comm w]
    exact block_lt_mul hy hx
  refine ⟨p.sample (y * w + x), ?_, hpx⟩
  rw [Plane.sample, List.getD_eq_getElem _ _ hlt]
  exact List.getElem_mem hlt

theorem resizePlane_bilinear_between {pr : Config.Params} (hpr : pr.DecidedReals) {B : PixelBuffer}
    {p : Plane} (hw : 1 ≤ B.width) (hh : 1 ≤ B.height) (hl : p.length = B.width * B.height)
    {lo hi : Nat} (hp : ∀ v ∈ p, lo ≤ v.toNat ∧ v.toNat ≤ hi) (tw th : Nat) :
    ∀ v ∈ resizePlane pr .bilinear B tw th p, lo ≤ v.toNat ∧ v.toNat ≤ hi := by
  have hpx (i j : Int) : (lo : Int) ≤ p.px B.width B.height i j ∧ p.px B.width B.height i j ≤ hi := by
    obtain ⟨v, hv, hpx⟩ := Plane.px_eq_mem hw hh hl i j
    rw [hpx, sampleInt]
    exact_mod_cast hp v hv
  intro v hv
  obtain ⟨i, -, rfl⟩ := Plane.mem_tabulate.mp hv
  have hbetween : lo ≤ resizeSample pr .bilinear B tw th p (i % tw) (i / tw) ∧
      resizeSample pr .bilinear B tw th p (i % tw) (i / tw) ≤ hi := bilinearAt_between hpr hpx _ _
  obtain ⟨h0, h1⟩ := resizeSample_bilinear_bounds hpr B tw th p (i % tw) (i / tw)
  rw [← sampleInt_sampleOfInt h0 h1, sampleInt] at hbetween
  exact_mod_cast hbetween

/-- Settles O41: the corners the sampler blends are samples of the source plane. -/
theorem bilinearStaysBetweenSourceSamples : Obligations.BilinearStaysBetweenSourceSamples := by
  intro d src tw th s t B B' _ hpr hs hB _ h ht hB' c hc lo hi hp
  have hw := (Ends.of_exec h).writes ht rfl
  rw [hB'] at hw
  cases hw with
  | resizeBl hs' =>
    cases hs'.symm.trans hs
    obtain ⟨⟨hwidth, -⟩, ⟨hheight, -⟩, -, hlength, -, -⟩ := hB
    rw [resizeBuffer_plane _ _ _ _ hc]
    exact resizePlane_bilinear_between hpr hwidth hheight (hlength _ (Planes.plane_mem hc)) hp tw th

/-! ## The resize to the source's own size (R111) -/

/-- What a filter gives at the centre of a pixel whose sample is `v` (R95, R102). -/
def Filter.atCentre (maxval : Nat) (v : Int) : Filter → Int
  | .bicubic => min v maxval
  | .bilinear => v

/-- At the source's own size every pixel's coordinates are its centre. -/
theorem resizeSample_sameSize {pr : Config.Params} (hpr : pr.DecidedReals) (m : Filter)
    {B : PixelBuffer} (p : Plane) {x y : Nat} (hx : x < B.width) (hy : y < B.height) :
    resizeSample pr m B B.width B.height p x y =
      m.atCentre B.maxval (sampleInt (p.sample (y * B.width + x))) := by
  have ⟨har, _⟩ := hpr
  have hu := sourceCoord_sameSize x (w := B.width) (by omega)
  have hv := sourceCoord_sameSize y (w := B.height) (by omega)
  cases m with
  | bicubic =>
    rw [resizeSample, har, hu, hv]
    exact sampleBicubic_centre hpr p B.maxval hx hy
  | bilinear =>
    rw [resizeSample, har, hu, hv]
    exact bilinearAt_centre hpr p hx hy

theorem resizePlane_sameSize {pr : Config.Params} (hpr : pr.DecidedReals) (m : Filter)
    {B : PixelBuffer} (p : Plane) {i : Nat} (hi : i < B.width * B.height) :
    (resizePlane pr m B B.width B.height p).sample i =
      sampleOfInt (m.atCentre B.maxval (sampleInt (p.sample i))) := by
  obtain ⟨y, hy, x, hx, rfl⟩ := exists_block_of_lt_mul (mul_comm B.width B.height ▸ hi)
  rw [resizePlane_sample _ _ _ _ hx hy, resizeSample_sameSize hpr m p hx hy]

theorem Planes.map_eq_self {f : Plane → Plane} {P : Planes} (h : ∀ p ∈ P.toList, f p = p) :
    P.map f = P := by
  cases P with
  | one p0 => rw [Planes.map, h p0 (by simp [Planes.toList])]
  | three p0 p1 p2 =>
    rw [Planes.map, h p0 (by simp [Planes.toList]), h p1 (by simp [Planes.toList]),
      h p2 (by simp [Planes.toList])]

/-- Where the filter gives every sample back, so does the resize to the same size the buffer. -/
theorem resizeBuffer_sameSize {pr : Config.Params} (hpr : pr.DecidedReals) {m : Filter}
    {B : PixelBuffer} {cap : Nat} (hB : B.Legal cap) (h : ∀ p ∈ B.planes.toList, ∀ i,
      m.atCentre B.maxval (sampleInt (p.sample i)) = sampleInt (p.sample i)) :
    resizeBuffer pr B B.width B.height m = B := by
  obtain ⟨-, -, -, hlength, -, -⟩ := hB
  have hplanes : B.planes.map (resizePlane pr m B B.width B.height) = B.planes := by
    refine Planes.map_eq_self fun p hp => ?_
    refine Plane.ext_sample ((resizePlane_length ..).trans (hlength p hp).symm) fun i hi => ?_
    rw [resizePlane_length] at hi
    rw [resizePlane_sameSize hpr m p hi, h p hp i, sampleOfInt_sampleInt]
  rw [resizeBuffer, hplanes]

/-- Settles O39: at the same size every coordinate is a pixel centre, where the samplers give the sample
back. -/
theorem sameSizeResizeIsIdentity : Obligations.SameSizeResizeIsIdentity := by
  intro d src s B hd hs hpr hB
  have ⟨hw, hh, _, _, hcap, _⟩ := hB
  constructor
  · obtain ⟨t, hexec, -, hslot⟩ := resize_completes .bilinear hd hs hw hh hcap
    rw [resizeBuffer_sameSize hpr hB fun _ _ _ => rfl] at hslot
    exact ⟨t, hexec, hslot⟩
  · obtain ⟨t, hexec, -, hslot⟩ := resize_completes .bicubic hd hs hw hh hcap
    refine ⟨t, _, hexec, hslot, rfl, rfl, rfl, Planes.count_map _ _, fun c hc => ?_, fun hin => ?_⟩
    · rw [resizeBuffer_plane _ _ _ _ hc]
      refine ⟨resizePlane_length .., fun i hi => ?_⟩
      rw [resizePlane_sameSize hpr .bicubic _ hi]
      exact sampleInt_sampleOfInt (le_min (sampleInt_nonneg _) (Int.natCast_nonneg _))
        ((min_le_left _ _).trans (sampleInt_le _))
    · rw [PixelBuffer.InRange, PixelBuffer.samplesAtMost_iff] at hin
      exact resizeBuffer_sameSize hpr hB fun p hp i =>
        min_eq_left (Int.ofNat_le.mpr (Plane.sample_le (hin p hp) i))

end Sys2Proof.Machine
end
section
/-! One-plane buffers, and `DEMOSAIC`: the range every step keeps, the order of the tests, and the blocky
intermediate as what both commands deliver (`10_state.md` R15, `43_demosaic.md` R120 to R127). -/

namespace Sys2Proof.Machine

/-! ## One-plane buffers stay in range (R15, R127) -/

/-- A one-plane buffer that a command writes is in range if those in the slots are: `RESIZE` keeps the
number of planes, and `DEMOSAIC` and the colour commands write three. -/
theorem Writes.onePlane_inRange {s : State} {i : Instr} {B' : PixelBuffer} (h : Writes s i (.full B'))
    (hpr : s.params.DecidedReals) (hs : s.OnePlaneInRange) (hc : B'.planes.count = 1) : B'.InRange := by
  cases h with
  | unpack1 htests | unpack3 htests =>
    obtain ⟨-, -, -, -, hbig⟩ := htests
    exact State.unpacked_inRange hbig
  | resizeBc => exact resizeBuffer_bicubic_inRange _ _ _ _
  | resizeBl hB =>
    rw [resizeBuffer_planes, Planes.count_map] at hc
    exact resizeBuffer_bilinear_samplesAtMost hpr (hs _ _ hB hc) _ _
  | demosaicBc | demosaicBl | rgb2ycc | ycc2rgb => cases hc

theorem State.OnePlaneInRange.setSlot {s : State} (h : s.OnePlaneInRange) (d : Slot) {x : SlotValue}
    (hx : ∀ B, x = .full B → B.planes.count = 1 → B.InRange) : (s.setSlot d x).OnePlaneInRange := by
  intro k B hB
  by_cases hk : k = d
  · subst hk
    rw [State.setSlot_slot_same] at hB
    exact hx B hB
  · rw [State.setSlot_slot_ne s hk] at hB
    exact h k B hB

theorem Ends.keeps_onePlaneInRange {s t : State} {i : Instr} (h : Ends s i t)
    (hpr : s.params.DecidedReals) (hs : s.OnePlaneInRange) : t.OnePlaneInRange := by
  cases h with
  | wrote _ hx => exact hs.setSlot _ fun _ hB => Writes.onePlane_inRange (hB ▸ hx) hpr hs
  | raised | packed | halted => exact hs

/-- Settles O15: by the ways a step can end, and what a command writes. -/
theorem onePlaneBuffersStayInRange : Obligations.OnePlaneBuffersStayInRange := by
  intro s t hpr hs h
  rcases step_cases s with ⟨-, e⟩ | ⟨-, f, info, e⟩ | ⟨-, -, i, -, e⟩
  · cases e.symm.trans h
    exact hs
  · cases e.symm.trans h
    exact hs
  · exact (Ends.of_exec (e.symm.trans h)).keeps_onePlaneInRange hpr hs

/-! ## The order of the tests of `DEMOSAIC` (R126) -/

/-- `DEMOSAIC` on distinct slots and a full source, by the last lines of R126. -/
theorem demosaic_eq_test (m : Filter) {d src : Slot} {s : State} {B : PixelBuffer} (hd : d ≠ src)
    (hs : s.slot src = .full B) : demosaic m d src s =
      if B.planes.count ≠ 1 then trap s .planeCountError 0
      else deliver s d (demosaicBuffer s.params B m) := by
  rw [demosaic, withDistinctSource_ne s hd, withSource_full hs]

/-- `DEMOSAIC`, its tests passed, delivers the resized intermediate and changes nothing else but
`pc`. -/
theorem demosaic_completes (m : Filter) {d src : Slot} {s : State} {B : PixelBuffer} (hd : d ≠ src)
    (hs : s.slot src = .full B) (hc : B.planes.count = 1) :
    ∃ t, demosaic m d src s = .next t ∧ s.OnlySlotWritten t d ∧
      t.slot d = .full (demosaicBuffer s.params B m) := by
  rw [demosaic_eq_test m hd hs, if_neg (not_not.mpr hc), deliver_eq]
  exact ⟨_, rfl, s.onlySlotWritten_setSlot_advance d _, s.setSlot_slot_same d _⟩

/-- Settles O44: by the tests of `Demosaic`, in their order. -/
theorem demosaicDeliversResizedIntermediate : Obligations.DemosaicDeliversResizedIntermediate := by
  intro d src s i m hi
  have hexec : exec i s = demosaic m d src s := by rcases hi with ⟨rfl, rfl⟩ | ⟨rfl, rfl⟩ <;> rfl
  rw [Raises, Raises, hexec]
  refine ⟨fun hd => ?_, fun hd hs => ?_, fun B hd hs => ⟨fun hc => ?_, fun hc => ?_⟩⟩
  · rw [demosaic, hd, withDistinctSource_same]
    rfl
  · rw [demosaic, withDistinctSource_ne s hd, withSource_empty hs]
    rfl
  · rw [Raises, hexec, demosaic_eq_test m hd hs, if_pos hc]
    rfl
  · exact demosaic_completes m hd hs hc

/-! ## The resize gives the intermediate back (R127) -/

theorem Filter.atCentre_of_le (m : Filter) {maxval : Nat} {v : Int} (h : v ≤ maxval) :
    m.atCentre maxval v = v := by
  cases m with
  | bicubic => exact min_eq_left h
  | bilinear => rfl

/-- The resize to the same size, by either filter, gives a buffer in range back. -/
theorem resizeBuffer_sameSize_of_inRange {pr : Config.Params} (hpr : pr.DecidedReals) (m : Filter)
    {B : PixelBuffer} {cap : Nat} (hB : B.Legal cap) (hin : B.InRange) :
    resizeBuffer pr B B.width B.height m = B :=
  resizeBuffer_sameSize hpr hB fun p hp i => m.atCentre_of_le <|
    Int.ofNat_le.mpr (Plane.sample_le (PixelBuffer.samplesAtMost_iff.mp hin p hp) i)

theorem blocky_legal {B : PixelBuffer} {cap : Nat} (h : B.Legal cap) : (blocky B).Legal cap := by
  obtain ⟨hw, hh, hmax, -, hcap, h255⟩ := h
  refine ⟨hw, hh, hmax, ?_, hcap, fun hm => blocky_samplesAtMost (h255 hm)⟩
  simp [blocky, Planes.toList]

theorem demosaicBuffer_eq_blocky {pr : Config.Params} (hpr : pr.DecidedReals) (m : Filter)
    {B : PixelBuffer} {cap : Nat} (hB : B.Legal cap) (hin : B.InRange) :
    demosaicBuffer pr B m = blocky B :=
  resizeBuffer_sameSize_of_inRange hpr m (blocky_legal hB) (blocky_samplesAtMost hin)

/-! ## The samples of the intermediate (R120 to R123) -/

theorem blockyPlane_sample {w h x y : Nat} (sensel : Nat → Nat → Sample) (hx : x < w) (hy : y < h) :
    (blockyPlane w h sensel).sample (y * w + x) = if inBlock w h x y then sensel x y else 0 := by
  have hmod : (y * w + x) % w = x := by rw [Nat.mul_add_mod', Nat.mod_eq_of_lt hx]
  have hdiv : (y * w + x) / w = y := by
    rw [Nat.add_comm, Nat.add_mul_div_right _ _ (by omega), Nat.div_eq_of_lt hx, Nat.zero_add]
  rw [blockyPlane, Plane.tabulate_sample _ _ (mul_comm w h ▸ block_lt_mul hy hx), hmod, hdiv]

/-- R123: a pixel of no block is 0. -/
theorem blockyPlane_sample_outside {w h x y : Nat} (sensel : Nat → Nat → Sample) (hx : x < w)
    (hy : y < h) (hout : w / 2 ≤ x / 2 ∨ h / 2 ≤ y / 2) :
    (blockyPlane w h sensel).sample (y * w + x) = 0 := by
  rw [blockyPlane_sample sensel hx hy, if_neg (by omega)]

theorem blockTopLeft_inside (w bi bj : Nat) {a b : Nat} (ha : a < 2) (hb : b < 2) :
    blockTopLeft w (2 * bi + a) (2 * bj + b) = 2 * bj * w + 2 * bi := by
  rw [blockTopLeft, show (2 * bi + a) / 2 = bi by omega, show (2 * bj + b) / 2 = bj by omega]

/-! The sensel of each plane at pixel `(a, b)` of block `(bi, bj)`, `a` the column (R121, R122). -/

theorem redSensel_inside (S : Plane) (w bi bj : Nat) : ∀ a < 2, ∀ b < 2,
    redSensel S w (2 * bi + a) (2 * bj + b) = S.sample (2 * bj * w + 2 * bi) := by
  intro a ha b hb
  rw [redSensel, blockTopLeft_inside w bi bj ha hb]

theorem greenSensel_inside (S : Plane) (w bi bj : Nat) : ∀ a < 2, ∀ b < 2,
    greenSensel S w (2 * bi + a) (2 * bj + b) =
      if a = b then S.sample (2 * bj * w + 2 * bi + 1) else S.sample (2 * bj * w + 2 * bi + w) := by
  intro a ha b hb
  have hdiagonal : (2 * bi + a) % 2 = (2 * bj + b) % 2 ↔ a = b := by omega
  simp only [greenSensel, blockTopLeft_inside w bi bj ha hb, hdiagonal]

theorem blueSensel_inside (S : Plane) (w bi bj : Nat) : ∀ a < 2, ∀ b < 2,
    blueSensel S w (2 * bi + a) (2 * bj + b) = S.sample (2 * bj * w + 2 * bi + w + 1) := by
  intro a ha b hb
  rw [blueSensel, blockTopLeft_inside w bi bj ha hb]

/-- The four pixels of block `(bi, bj)`, at their indices: the top row, then the bottom row. -/
theorem blockyPlane_block {w h bi bj : Nat} (hbi : bi < w / 2) (hbj : bj < h / 2)
    {sensel value : Nat → Nat → Sample}
    (hvalue : ∀ a < 2, ∀ b < 2, sensel (2 * bi + a) (2 * bj + b) = value a b) :
    let p := blockyPlane w h sensel
    let tl := 2 * bj * w + 2 * bi
    p.sample tl = value 0 0 ∧ p.sample (tl + 1) = value 1 0 ∧
      p.sample (tl + w) = value 0 1 ∧ p.sample (tl + w + 1) = value 1 1 := by
  intro p tl
  have hpixel (a : Nat) (ha : a < 2) (b : Nat) (hb : b < 2) :
      p.sample ((2 * bj + b) * w + (2 * bi + a)) = value a b := by
    rw [blockyPlane_sample sensel (by omega) (by omega), if_pos (by omega), hvalue a ha b hb]
  have hbottom : tl + w = (2 * bj + 1) * w + 2 * bi := by ring
  rw [hbottom]
  exact ⟨hpixel 0 (by decide) 0 (by decide), hpixel 1 (by decide) 0 (by decide),
    hpixel 0 (by decide) 1 (by decide), hpixel 1 (by decide) 1 (by decide)⟩

theorem blocky_of_one {B : PixelBuffer} {S : Plane} (h : B.planes = .one S) :
    blocky B = ⟨B.width, B.height, B.maxval,
      .three (blockyPlane B.width B.height (redSensel S B.width))
        (blockyPlane B.width B.height (greenSensel S B.width))
        (blockyPlane B.width B.height (blueSensel S B.width))⟩ := by
  rw [blocky, h]
  rfl

/-- Settles O45: the delivered buffer is the intermediate, and its samples are known pixel by pixel. -/
theorem demosaicIsBlockReplication : Obligations.DemosaicIsBlockReplication := by
  intro i d src s B S hi hd hs hpr hS hB hin
  obtain ⟨m, hexec⟩ : ∃ m, exec i s = demosaic m d src s := by
    rcases hi with rfl | rfl
    · exact ⟨.bicubic, rfl⟩
    · exact ⟨.bilinear, rfl⟩
  obtain ⟨t, ht, -, hslot⟩ := demosaic_completes m hd hs (hS ▸ rfl)
  rw [demosaicBuffer_eq_blocky hpr m hB hin, blocky_of_one hS] at hslot
  refine ⟨t, _, _, _, hexec.trans ht, hslot, blockyPlane_length .., blockyPlane_length ..,
    blockyPlane_length .., fun bi hbi bj hbj => ?_, fun x hx y hy hout => ?_⟩
  · obtain ⟨g00, g10, g01, g11⟩ := blockyPlane_block hbi hbj (greenSensel_inside S B.width bi bj)
    exact ⟨blockyPlane_block hbi hbj (redSensel_inside S B.width bi bj), ⟨g00, g11, g10, g01⟩,
      blockyPlane_block hbi hbj (blueSensel_inside S B.width bi bj)⟩
  · exact ⟨blockyPlane_sample_outside _ hx hy hout, blockyPlane_sample_outside _ hx hy hout,
      blockyPlane_sample_outside _ hx hy hout⟩

end Sys2Proof.Machine
end

section
/-! `RGB2YCC` and `YCC2RGB`: the buffer each delivers, the formulae on 8-bit samples, and the round trip
(`44_color_matrix.md` R135 to R141). -/

namespace Sys2Proof.Machine

/-! ## The buffer a colour command delivers (R135) -/

/-- A colour command on distinct slots and a full three-plane source completes, and changes its slot and
`pc` only. -/
theorem colorCommand_completes (g : PixelBuffer → PixelBuffer) {d src : Slot} {s : State}
    {B : PixelBuffer} (hd : d ≠ src) (hs : s.slot src = .full B) (hc : B.planes.count = 3) :
    ∃ t, colorCommand g d src s = .next t ∧ s.OnlySlotWritten t d ∧ t.slot d = .full (g B) := by
  rw [colorCommand, withDistinctSource_ne s hd, withSource_full hs, if_neg (not_not.mpr hc), deliver_eq]
  exact ⟨_, rfl, s.onlySlotWritten_setSlot_advance d _, s.setSlot_slot_same d _⟩

/-- A formula whose values fit a sample is stored as it is. -/
theorem mixPlane_sampleInt {B : PixelBuffer} {p0 p1 p2 : Plane} (hB : B.planes = .three p0 p1 p2)
    {f : Int → Int → Int → Int} (hf : ∀ a b c, 0 ≤ f a b c ∧ f a b c ≤ 255) {i : Nat}
    (hi : i < B.width * B.height) :
    sampleInt ((mixPlane B f).sample i) =
      f (sampleInt (p0.sample i)) (sampleInt (p1.sample i)) (sampleInt (p2.sample i)) := by
  rw [mixPlane, Plane.tabulate_sample _ _ hi, hB]
  exact sampleInt_sampleOfInt (hf _ _ _).1 ((hf _ _ _).2.trans (by decide))

/-- R137: every formula ends in `clip8`. -/
theorem rgbToYcc_sampleInt (sh : Config.Shift) {B : PixelBuffer} {p0 p1 p2 : Plane}
    (hB : B.planes = .three p0 p1 p2) {i : Nat} (hi : i < B.width * B.height) :
    let R := sampleInt (p0.sample i)
    let G := sampleInt (p1.sample i)
    let Bl := sampleInt (p2.sample i)
    sampleInt ((mixPlane B (rgbY sh)).sample i) = rgbY sh R G Bl ∧
      sampleInt ((mixPlane B (rgbCb sh)).sample i) = rgbCb sh R G Bl ∧
      sampleInt ((mixPlane B (rgbCr sh)).sample i) = rgbCr sh R G Bl :=
  ⟨mixPlane_sampleInt hB (fun _ _ _ => clip8_bounds _) hi,
    mixPlane_sampleInt hB (fun _ _ _ => clip8_bounds _) hi,
    mixPlane_sampleInt hB (fun _ _ _ => clip8_bounds _) hi⟩

theorem yccToRgb_sampleInt (sh : Config.Shift) {B : PixelBuffer} {p0 p1 p2 : Plane}
    (hB : B.planes = .three p0 p1 p2) {i : Nat} (hi : i < B.width * B.height) :
    let Y := sampleInt (p0.sample i)
    let Cb := sampleInt (p1.sample i)
    let Cr := sampleInt (p2.sample i)
    sampleInt ((mixPlane B (yccR sh)).sample i) = yccR sh Y Cb Cr ∧
      sampleInt ((mixPlane B (yccG sh)).sample i) = yccG sh Y Cb Cr ∧
      sampleInt ((mixPlane B (yccB sh)).sample i) = yccB sh Y Cb Cr :=
  ⟨mixPlane_sampleInt hB (fun _ _ _ => clip8_bounds _) hi,
    mixPlane_sampleInt hB (fun _ _ _ => clip8_bounds _) hi,
    mixPlane_sampleInt hB (fun _ _ _ => clip8_bounds _) hi⟩

/-! ## The formulae in the words of the claims (R136, R141) -/

theorem clip8_eq_max_min (v : Int) : clip8 v = max 0 (min 255 v) := by
  rw [clip8, clamp_eq_max_min v (by decide), min_comm]

/-- The `Y` line shifts no negative integer (U6). -/
theorem rgbY_of_nonneg (sh : Config.Shift) {R G B : Int} (hR : 0 ≤ R) (hG : 0 ≤ G) (hB : 0 ≤ B) :
    rgbY sh R G B = max 0 (min 255 ((19595 * R + 38470 * G + 7471 * B) / 65536)) := by
  rw [rgbY, shiftRight_of_nonneg sh (by positivity), clip8_eq_max_min]
  rfl

theorem rgbCb_floor (R G B : Int) :
    rgbCb .floor R G B = max 0 (min 255 (36962 * (B - rgbY .floor R G B) / 65536 + 128)) := by
  rw [rgbCb, shiftRight_floor, clip8_eq_max_min]
  rfl

theorem rgbCr_floor (R G B : Int) :
    rgbCr .floor R G B = max 0 (min 255 (46727 * (R - rgbY .floor R G B) / 65536 + 128)) := by
  rw [rgbCr, shiftRight_floor, clip8_eq_max_min]
  rfl

/-! R141 shifts no negative integer: samples are not negative. -/

theorem yccR_of_nonneg (sh : Config.Shift) (Y Cb : Int) {Cr : Int} (hCr : 0 ≤ Cr) :
    yccR sh Y Cb Cr = max 0 (min 255 (Y + 91881 * Cr / 65536 - 179)) := by
  rw [yccR, shiftRight_of_nonneg sh (by positivity), clip8_eq_max_min]
  rfl

theorem yccG_of_nonneg (sh : Config.Shift) (Y : Int) {Cb Cr : Int} (hCb : 0 ≤ Cb) (hCr : 0 ≤ Cr) :
    yccG sh Y Cb Cr = max 0 (min 255 (Y - (22544 * Cb + 46793 * Cr) / 65536 + 135)) := by
  rw [yccG, shiftRight_of_nonneg sh (by positivity), clip8_eq_max_min]
  rfl

theorem yccB_of_nonneg (sh : Config.Shift) (Y : Int) {Cb : Int} (Cr : Int) (hCb : 0 ≤ Cb) :
    yccB sh Y Cb Cr = max 0 (min 255 (Y + 116129 * Cb / 65536 - 226)) := by
  rw [yccB, shiftRight_of_nonneg sh (by positivity), clip8_eq_max_min]
  rfl

/-- Settles O46: each stored sample is its formula's value, and the formula's shifts are floors. -/
theorem rgb2yccDeliversFormulae : Obligations.Rgb2yccDeliversFormulae := by
  intro d src s B pR pG pB hd hs hB
  obtain ⟨t, hexec, hframe, hslot⟩ :=
    colorCommand_completes (rgbToYcc s.params.shift) hd hs (hB ▸ rfl)
  refine ⟨t, _, _, _, hexec, hframe, hslot, mixPlane_length .., mixPlane_length .., mixPlane_length ..,
    fun i hi => ?_⟩
  intro R G Bl Y
  obtain ⟨hq0, hq1, hq2⟩ := rgbToYcc_sampleInt s.params.shift hB hi
  have hY : rgbY s.params.shift R G Bl = Y :=
    rgbY_of_nonneg _ (sampleInt_nonneg _) (sampleInt_nonneg _) (sampleInt_nonneg _)
  refine ⟨hq0.trans hY, fun hsh => ?_⟩
  rw [← hY, hq1, hq2, hsh]
  exact ⟨rgbCb_floor R G Bl, rgbCr_floor R G Bl⟩

/-- Settles O47: each stored sample is its formula's value, and no shifted sum is negative. -/
theorem ycc2rgbDeliversFormulae : Obligations.Ycc2rgbDeliversFormulae := by
  intro d src s B pY pCb pCr hd hs hB
  obtain ⟨t, hexec, hframe, hslot⟩ :=
    colorCommand_completes (yccToRgb s.params.shift) hd hs (hB ▸ rfl)
  refine ⟨t, _, _, _, hexec, hframe, hslot, mixPlane_length .., mixPlane_length .., mixPlane_length ..,
    fun i hi => ?_⟩
  obtain ⟨hq0, hq1, hq2⟩ := yccToRgb_sampleInt s.params.shift hB hi
  exact ⟨hq0.trans (yccR_of_nonneg _ _ _ (sampleInt_nonneg _)),
    hq1.trans (yccG_of_nonneg _ _ (sampleInt_nonneg _) (sampleInt_nonneg _)),
    hq2.trans (yccB_of_nonneg _ _ _ (sampleInt_nonneg _))⟩

/-! ## `RGB2YCC` on 8-bit samples (R140) -/

section
variable {R G B : Int} (hR : 0 ≤ R ∧ R ≤ 255) (hG : 0 ≤ G ∧ G ≤ 255) (hB : 0 ≤ B ∧ B ≤ 255)
include hR hG hB

/-- The weights of `Y` are not negative and add up to 65536, so the clip does not act. -/
theorem rgbY_eightBit :
    rgbY .floor R G B = (19595 * R + 38470 * G + 7471 * B) / 65536 := by
  rw [rgbY_of_nonneg _ hR.1 hG.1 hB.1]
  omega

theorem blue_sub_rgbY_bounds : -225 ≤ B - rgbY .floor R G B ∧ B - rgbY .floor R G B ≤ 226 := by
  rw [rgbY_eightBit hR hG hB]
  omega

theorem red_sub_rgbY_bounds : -178 ≤ R - rgbY .floor R G B ∧ R - rgbY .floor R G B ≤ 179 := by
  rw [rgbY_eightBit hR hG hB]
  omega

theorem rgbCb_eightBit :
    rgbCb .floor R G B = 36962 * (B - rgbY .floor R G B) / 65536 + 128 ∧
      1 ≤ rgbCb .floor R G B ∧ rgbCb .floor R G B ≤ 255 := by
  have := blue_sub_rgbY_bounds hR hG hB
  rw [rgbCb_floor]
  omega

theorem rgbCr_eightBit :
    rgbCr .floor R G B = 46727 * (R - rgbY .floor R G B) / 65536 + 128 ∧
      1 ≤ rgbCr .floor R G B ∧ rgbCr .floor R G B ≤ 255 := by
  have := red_sub_rgbY_bounds hR hG hB
  rw [rgbCr_floor]
  omega

end

theorem rgbY_grey {g : Int} (hg : 0 ≤ g ∧ g ≤ 255) : rgbY .floor g g g = g := by
  rw [rgbY_eightBit hg hg hg]
  omega

/-- Settles O49: from the bounds of the two differences; on a grey pixel both are 0. -/
theorem rgb2yccOnEightBitSamples : Obligations.Rgb2yccOnEightBitSamples := by
  intro R G B hR hG hB
  obtain ⟨hCb, hCbBounds⟩ := rgbCb_eightBit hR hG hB
  obtain ⟨hCr, hCrBounds⟩ := rgbCr_eightBit hR hG hB
  refine ⟨rgbY_eightBit hR hG hB, hCb, hCr, hCbBounds, hCrBounds, ?_⟩
  rintro rfl rfl
  rw [hCb, hCr, rgbY_grey hR, sub_self]
  exact ⟨rfl, rfl, rfl⟩

/-! ## The round trip (R139) -/

/-- The clip brings a value no further from an 8-bit one. -/
theorem abs_clip8_sub_le {x e : Int} (hx : 0 ≤ x ∧ x ≤ 255) (v : Int) (h : |v - x| ≤ e) :
    |max 0 (min 255 v) - x| ≤ e := by
  rw [abs_le] at h ⊢
  omega

/-- The error in R rests on the difference `R - Y` alone. Up to 138 the floors' losses bound it; the
bound is no linear fact above that (it fails at 223), so the differences left are evaluated. -/
theorem red_difference_round_trip {a : Int} (ha : -178 ≤ a ∧ a ≤ 179) :
    -1 ≤ 91881 * (46727 * a / 65536 + 128) / 65536 - 179 - a ∧
      91881 * (46727 * a / 65536 + 128) / 65536 - 179 - a ≤ 1 := by
  obtain ⟨hlo, hhi⟩ := ha
  rcases le_or_gt a 138 with h | h
  · omega
  · interval_cases a <;> decide

section
variable {R G B : Int} (hR : 0 ≤ R ∧ R ≤ 255) (hG : 0 ≤ G ∧ G ≤ 255) (hB : 0 ≤ B ∧ B ≤ 255)
include hR hG hB

theorem red_round_trip (sh : Config.Shift) :
    |yccR sh (rgbY .floor R G B) (rgbCb .floor R G B) (rgbCr .floor R G B) - R| ≤ 1 := by
  obtain ⟨hCr, hCr1, -⟩ := rgbCr_eightBit hR hG hB
  rw [yccR_of_nonneg _ _ _ (by omega), hCr]
  refine abs_clip8_sub_le hR _ ?_
  have herror := red_difference_round_trip (red_sub_rgbY_bounds hR hG hB)
  rw [abs_le]
  omega

/-- The floors in `Y`, `Cb`, `Cr` and in the result each lose less than one unit. -/
theorem green_round_trip (sh : Config.Shift) :
    |yccG sh (rgbY .floor R G B) (rgbCb .floor R G B) (rgbCr .floor R G B) - G| ≤ 2 := by
  obtain ⟨hCb, hCb1, -⟩ := rgbCb_eightBit hR hG hB
  obtain ⟨hCr, hCr1, -⟩ := rgbCr_eightBit hR hG hB
  have hY := rgbY_eightBit hR hG hB
  have := red_sub_rgbY_bounds hR hG hB
  have := blue_sub_rgbY_bounds hR hG hB
  rw [yccG_of_nonneg _ _ (by omega) (by omega)]
  refine abs_clip8_sub_le hG _ ?_
  rw [abs_le]
  omega

theorem blue_round_trip (sh : Config.Shift) :
    |yccB sh (rgbY .floor R G B) (rgbCb .floor R G B) (rgbCr .floor R G B) - B| ≤ 2 := by
  obtain ⟨hCb, hCb1, -⟩ := rgbCb_eightBit hR hG hB
  have := blue_sub_rgbY_bounds hR hG hB
  rw [yccB_of_nonneg _ _ _ (by omega)]
  refine abs_clip8_sub_le hB _ ?_
  rw [abs_le]
  omega

end

theorem PixelBuffer.samplesAtMost.sampleInt_bounds {B : PixelBuffer} {m : Nat} (h : B.samplesAtMost m)
    {p : Plane} (hp : p ∈ B.planes.toList) (i : Nat) :
    0 ≤ sampleInt (p.sample i) ∧ sampleInt (p.sample i) ≤ m :=
  ⟨sampleInt_nonneg _, Int.ofNat_le.mpr (Plane.sample_le (PixelBuffer.samplesAtMost_iff.mp h p hp) i)⟩

/-- Settles O48: both commands complete, and the bounds hold pixel by pixel. -/
theorem colorRoundTripIsWithinTwo : Obligations.ColorRoundTripIsWithinTwo := by
  intro src mid d s B pR pG pB hsh hmid hd hs hB h255
  obtain ⟨t, ht, -, htmid⟩ := colorCommand_completes (rgbToYcc s.params.shift) hmid hs (hB ▸ rfl)
  obtain ⟨u, hu, -, hud⟩ := colorCommand_completes (yccToRgb t.params.shift) hd htmid rfl
  refine ⟨t, u, _, _, _, ht, hu, hud, fun i hi => ?_⟩
  obtain ⟨hY, hCb, hCr⟩ := rgbToYcc_sampleInt s.params.shift hB hi
  obtain ⟨hq0, hq1, hq2⟩ :=
    yccToRgb_sampleInt t.params.shift (B := rgbToYcc s.params.shift B) rfl hi
  have hR := h255.sampleInt_bounds (p := pR) (by simp [hB, Planes.toList]) i
  have hG := h255.sampleInt_bounds (p := pG) (by simp [hB, Planes.toList]) i
  have hBl := h255.sampleInt_bounds (p := pB) (by simp [hB, Planes.toList]) i
  rw [hq0, hq1, hq2, hY, hCb, hCr, hsh]
  exact ⟨red_round_trip hR hG hBl _, green_round_trip hR hG hBl _, blue_round_trip hR hG hBl _⟩

end Sys2Proof.Machine
end

section
/-! The run of the sequencer, and its own commands `FREE` and `HALT`: how a running engine's step goes
on, how far a run gets, and what the two commands leave (`45_control.md` R150 to R154). -/

namespace Sys2Proof.Machine

/-! ## One step of a run (R153, R17) -/

/-- Settles O6: the fetch answers the decoded command, and the step runs it. -/
theorem stepRunsDecodedCommand : Obligations.StepRunsDecodedCommand :=
  fun _ _ => step_of_decode_ok

theorem Effect.ends_or_advances {s t : State} (h : Effect s t) (hr : s.status = .running) :
    (t.runEnded ∧ t.pc = s.pc) ∨ (t.status = .running ∧ t.pc = s.advance.pc) := by
  cases h with
  | raised f info => exact .inl ⟨.inr rfl, rfl⟩
  | slotWritten d x => exact .inr ⟨hr, rfl⟩
  | bytesWritten addr bs _ => exact .inr ⟨hr, rfl⟩
  | stopped => exact .inl ⟨.inl rfl, rfl⟩

/-- Settles O9: a fault of the fetch ends the run, and a fetched command does one or the other, `pc + 1`
not wrapping inside the store. -/
theorem stepEndsRunOrAdvancesPc : Obligations.StepEndsRunOrAdvancesPc := by
  intro s hr
  rcases step_cases s with ⟨hn, -⟩ | ⟨-, f, info, e⟩ | ⟨-, hpc, i, -, e⟩
  · exact absurd hr hn
  · exact ⟨_, e, .inl ⟨.inr rfl, rfl⟩⟩
  · obtain ⟨t, ht, heff⟩ := exec_effect i s
    refine ⟨t, e.trans ht, (heff.ends_or_advances hr).imp_right fun ⟨hrun, hadv⟩ => ?_⟩
    exact ⟨hrun, hadv ▸ State.advance_pc_toNat hpc, hpc⟩

theorem step_params_kept {s t : State} (h : step s = .next t) : t.params = s.params := by
  rcases step_cases s with ⟨-, e⟩ | ⟨-, f, info, e⟩ | ⟨-, -, i, -, e⟩
  · cases e.symm.trans h
    rfl
  · cases e.symm.trans h
    exact s.raise_params f info
  · exact (onlyDestinationSlotChanges i s t (e.symm.trans h)).2

/-! ## The steps of a run (R152, R154) -/

theorem runSteps_zero (s : State) : runSteps 0 s = .next s := rfl

theorem coreRun_succ {M : Host.Core} {s t : M.State} (h : M.step s = .next t) (k : Nat) :
    M.run (k + 1) s = M.run k t := by
  simp only [Host.Core.run, h]

theorem runSteps_succ {s t : State} (h : step s = .next t) (k : Nat) :
    runSteps (k + 1) s = runSteps k t :=
  coreRun_succ (M := core) h k

theorem State.runEnded.not_running {s : State} (h : s.runEnded) : s.status ≠ .running := by
  rcases h with h | h <;> simp [h]

theorem runSteps_of_not_running {s : State} (h : s.status ≠ .running) (k : Nat) :
    runSteps k s = .next s := by
  induction k with
  | zero => exact runSteps_zero s
  | succ k ih => rw [runSteps_succ (step_of_not_running h), ih]

/-- R154's measure: each step that does not end the run takes one from `NCMD - pc`. -/
theorem runSteps_ends (k : Nat) (s : State)
    (h : s.runEnded ∨ (s.status = .running ∧ s.params.ncmd - s.pc.toNat < k)) :
    ∃ t, runSteps k s = .next t ∧ t.runEnded := by
  induction k generalizing s with
  | zero => exact ⟨s, rfl, h.resolve_right fun ⟨_, hk⟩ => absurd hk (Nat.not_lt_zero _)⟩
  | succ k ih =>
    rcases h with hended | ⟨hr, hk⟩
    · exact ⟨s, runSteps_of_not_running hended.not_running _, hended⟩
    · obtain ⟨t, ht, hnext⟩ := stepEndsRunOrAdvancesPc s hr
      rw [runSteps_succ ht]
      refine ih t (hnext.imp And.left fun ⟨hrun, hadv, hpc⟩ => ⟨hrun, ?_⟩)
      rw [step_params_kept ht, hadv]
      omega

/-- Settles O10: the measure is at most `NCMD`, whatever `pc` is. -/
theorem runEndsWithinStoreLength : Obligations.RunEndsWithinStoreLength :=
  fun s hr => runSteps_ends _ s (.inr ⟨hr, Nat.lt_succ_of_le (Nat.sub_le _ _)⟩)

/-- Settles O11: by induction on the steps; a run that ends on the way is not RUNNING at the last. -/
theorem runIsStraightLine : Obligations.RunIsStraightLine := by
  intro k
  induction k with
  | zero =>
    intro s t h _ _
    cases (runSteps_zero s).symm.trans h
    rfl
  | succ k ih =>
    intro s t h hs ht
    obtain ⟨u, hu, ⟨hended, -⟩ | ⟨hrun, hadv, -⟩⟩ := stepEndsRunOrAdvancesPc s hs
    · rw [runSteps_succ hu, runSteps_of_not_running hended.not_running] at h
      cases h
      exact absurd ht hended.not_running
    · rw [runSteps_succ hu] at h
      rw [ih u t h hrun ht, hadv]
      omega

/-! ## FREE (R150) -/

theorem freeWord_eq_encode (d : Slot) :
    commandOfWords (BitVec.ofNat 32 (0x07000000 + 0x00100000 * d.val)) 0 0 0 = encode (.free d) := by
  decide +revert

theorem free_wellFormed {nbuf : Nat} {d : Slot} (h : d.val < nbuf) : (Instr.free d).WellFormed nbuf := by
  simp [Instr.WellFormed, Instr.wellFormed, Instr.operandsFit, Instr.slots, h]

theorem exec_free (d : Slot) (s : State) : exec (.free d) s = .next (s.setSlot d .empty).advance := rfl

/-- Settles O50: the word is the encoding of `FREE`, the command is one `setSlot` and one `advance`, and
the slot it leaves is an empty source. -/
theorem freeEmptiesSlot : Obligations.FreeEmptiesSlot := by
  intro d s
  have hempty : (s.setSlot d .empty).advance.slot d = .empty := s.setSlot_slot_same d .empty
  refine ⟨fun hd => ?_, _, exec_free d s, hempty, s.onlySlotWritten_setSlot_advance d .empty,
    (emptySourceRaisesEmptySlot d _ hempty).1 0⟩
  rw [freeWord_eq_encode]
  exact decodeOfEncodeIsIdentity _ _ (free_wellFormed hd)

/-! ## HALT (R151) -/

theorem exec_halt (s : State) : exec .halt s = .next { s with status := .halted } := rfl

theorem decode_eq_halt_iff (nbuf : Nat) (C : Command) :
    decode nbuf C = .ok .halt ↔ C = commandOfWords 0x08000000 0 0 0 := by
  have hword : encode .halt = commandOfWords 0x08000000 0 0 0 := by decide
  constructor
  · intro h
    rw [← (encodeOfDecodeIsIdentity nbuf C .halt h).2, hword]
  · rintro rfl
    exact hword ▸ decodeOfEncodeIsIdentity nbuf .halt rfl

/-- Every other way to end keeps `STATUS` or sets it to FAULTED. -/
theorem Ends.eq_halt {s t : State} {i : Instr} (h : Ends s i t) (hs : s.status = .running)
    (ht : t.status = .halted) : i = .halt := by
  cases h with
  | raised f info => cases (s.raise_status f info).symm.trans ht
  | wrote _ _ => cases hs.symm.trans ht
  | packed _ _ => cases hs.symm.trans ht
  | halted => rfl

theorem State.writeCtrl_one (s : State) : s.writeCtrl 1 = s.start := rfl

/-- Settles O51: the one word of `HALT`, its one write, the step and the START after it, and the ways a
command can end. -/
theorem haltStopsTheEngine : Obligations.HaltStopsTheEngine := by
  refine ⟨decode_eq_halt_iff, fun s t => ⟨exec_halt s, fun h => ?_⟩,
    fun i s t h => (Ends.of_exec h).eq_halt⟩
  cases (exec_halt s).symm.trans h
  refine ⟨step_of_not_running (by simp), ?_⟩
  rw [hostMove_writeCtrl, State.writeCtrl_one, State.start_of_stopped (.inr rfl)]

end Sys2Proof.Machine
end

section
/-! The faults (`60_exceptions.md`): which fault each command can take, what a fault entry leaves, and how
FAULTED is left (R160, R166 to R171, R173, R175). -/

namespace Sys2Proof.Machine

/-! ## A fault is the fault entry and nothing else (R170) -/

/-- An effect either is the fault entry, or keeps `ERR` and does not lead into FAULTED. -/
theorem Effect.raised_or_err_kept {s t : State} (h : Effect s t) :
    (∃ f info, t = s.raise f info) ∨
      (t.err = s.err ∧ (t.status = .faulted → s.status = .faulted)) := by
  cases h with
  | raised f info => exact .inl ⟨f, info, rfl⟩
  | slotWritten d x => exact .inr ⟨rfl, id⟩
  | bytesWritten addr bs _ => exact .inr ⟨rfl, id⟩
  | stopped => exact .inr ⟨rfl, nofun⟩

theorem exec_faulted_eq_raise {i : Instr} {s t : State} (h : exec i s = .next t)
    (hs : s.status ≠ .faulted) (ht : t.status = .faulted) : ∃ f info, t = s.raise f info :=
  (Effect.of_exec h).raised_or_err_kept.resolve_right fun ⟨_, hst⟩ => hs (hst ht)

theorem step_faulted_eq_raise {s t : State} (h : step s = .next t) (hs : s.status ≠ .faulted)
    (ht : t.status = .faulted) : ∃ f info, t = s.raise f info := by
  rcases step_cases s with ⟨-, e⟩ | ⟨-, f, info, e⟩ | ⟨-, -, i, -, e⟩
  · cases e.symm.trans h
    exact absurd ht hs
  · cases e.symm.trans h
    exact ⟨f, info, rfl⟩
  · exact exec_faulted_eq_raise (e.symm.trans h) hs ht

/-- The fault entry in the words of the claims: four writes, and a code of R160. -/
theorem State.raise_eq_four_writes (s : State) (f : Cause) (info : Nat) :
    ∃ code : BitVec 4, ∃ sub : BitVec 8, (1 ≤ code.toNat ∧ code.toNat ≤ 9) ∧
      s.raise f info =
        { s with err := code, errInfo := sub, errPc := s.pc, status := .faulted } := by
  obtain ⟨h0, h9⟩ := f.code_bounds
  refine ⟨f.code, BitVec.ofNat 8 info, ⟨?_, h9⟩, rfl⟩
  exact Nat.one_le_iff_ne_zero.mpr fun h => h0 (BitVec.eq_of_toNat_eq h)

/-- Settles O17: a command or a step that comes into FAULTED has taken the fault entry. -/
theorem faultsArePrecise : Obligations.FaultsArePrecise := by
  refine ⟨fun s f info => ?_, fun i s t h hs ht => ?_, fun s t h hs ht => ?_⟩
  · rw [trap_eq, State.raise, BitVec.ofNat_toNat, BitVec.setWidth_eq]
  · obtain ⟨f, info, rfl⟩ := exec_faulted_eq_raise h hs ht
    exact s.raise_eq_four_writes f info
  · obtain ⟨f, info, rfl⟩ := step_faulted_eq_raise h hs ht
    exact s.raise_eq_four_writes f info

/-! ## The causes of each command (R175) -/

/-- A fault entry of `s` that `r` answers has its code in the list `C`. -/
def RaisesOnly (s : State) (C : List (BitVec 4)) (r : Result) : Prop :=
  ∀ f info, r = .next (s.raise f info) → f.code ∈ C

namespace RaisesOnly

variable {s : State} {C : List (BitVec 4)}

theorem trap {f : Cause} (hf : f.code ∈ C) (info : Nat) : RaisesOnly s C (trap s f info) := by
  intro g n h
  have hcode : f.code = g.code := congrArg State.err (Host.Outcome.next.inj h)
  exact hcode ▸ hf

/-- A command that completes has moved `pc`, which a fault entry keeps. -/
theorem complete {u : State} (hu : u.pc = s.pc) : RaisesOnly s C (complete u) := by
  intro f info h
  have hpc : s.pc + 1 = s.pc := hu ▸ congrArg State.pc (Host.Outcome.next.inj h)
  exact absurd hpc (by bv_omega)

theorem deliver (d : Slot) (B : PixelBuffer) : RaisesOnly s C (deliver s d B) := complete rfl

theorem ite {p : Prop} [Decidable p] {a b : Result} (ha : RaisesOnly s C a)
    (hb : RaisesOnly s C b) : RaisesOnly s C (if p then a else b) := by
  split
  · exact ha
  · exact hb

theorem withSource {src : Slot} {k : PixelBuffer → Result} (hempty : Cause.emptySlot.code ∈ C)
    (hk : ∀ B, RaisesOnly s C (k B)) : RaisesOnly s C (withSource s src k) := by
  cases hs : s.slot src with
  | empty => exact withSource_empty hs k ▸ trap hempty 0
  | full B => exact withSource_full hs k ▸ hk B

theorem withDistinctSource {d src : Slot} {k : PixelBuffer → Result}
    (hconflict : Cause.slotConflict.code ∈ C) (hempty : Cause.emptySlot.code ∈ C)
    (hk : ∀ B, RaisesOnly s C (k B)) : RaisesOnly s C (withDistinctSource s d src k) :=
  ite (trap hconflict 0) (withSource hempty hk)

end RaisesOnly

theorem unpack_raisesOnly (d : Slot) (c : Format) (w h maxval addr len : Nat) (s : State) :
    RaisesOnly s [2, 1, 3, 4] (unpack d c w h maxval addr len s) :=
  .ite (.trap (by decide) 1) <| .ite (.trap (by decide) 2) <| .ite (.trap (by decide) 1) <|
  .ite (.trap (by decide) 0) <| .ite (.trap (by decide) 2) <| .ite (.trap (by decide) 0) <|
  .ite (.trap (by decide) 3) <| .deliver d _

theorem execPack_raisesOnly (src : Slot) (addr : Nat) (s : State) :
    RaisesOnly s [6, 4] (execPack src addr s) :=
  .withSource (by decide) fun _ => .ite (.trap (by decide) 0) <| .complete rfl

theorem resize_raisesOnly (m : Filter) (d src : Slot) (tw th : Nat) (s : State) :
    RaisesOnly s [8, 6, 2, 3] (resize m d src tw th s) :=
  .withDistinctSource (by decide) (by decide) fun _ =>
  .ite (.trap (by decide) 1) <| .ite (.trap (by decide) 2) <| .ite (.trap (by decide) 0) <| .deliver d _

theorem demosaic_raisesOnly (m : Filter) (d src : Slot) (s : State) :
    RaisesOnly s [8, 6, 7] (demosaic m d src s) :=
  .withDistinctSource (by decide) (by decide) fun _ => .ite (.trap (by decide) 0) <| .deliver d _

theorem colorCommand_raisesOnly (g : PixelBuffer → PixelBuffer) (d src : Slot) (s : State) :
    RaisesOnly s [8, 6, 7] (colorCommand g d src s) :=
  .withDistinctSource (by decide) (by decide) fun _ => .ite (.trap (by decide) 0) <| .deliver d _

/-- The row of R175 for each command. -/
theorem exec_raisesOnly (i : Instr) (s : State) : RaisesOnly s i.causes (exec i s) := by
  cases i with
  | unpack1 d w h maxval addr len => exact unpack_raisesOnly d .single w h maxval addr len s
  | unpack3 d w h maxval addr len => exact unpack_raisesOnly d .three w h maxval addr len s
  | pack src addr => exact execPack_raisesOnly src addr s
  | resizeBc d src tw th => exact resize_raisesOnly .bicubic d src tw th s
  | resizeBl d src tw th => exact resize_raisesOnly .bilinear d src tw th s
  | demosaicBc d src => exact demosaic_raisesOnly .bicubic d src s
  | demosaicBl d src => exact demosaic_raisesOnly .bilinear d src s
  | rgb2ycc d src => exact colorCommand_raisesOnly (rgbToYcc s.params.shift) d src s
  | ycc2rgb d src => exact colorCommand_raisesOnly (yccToRgb s.params.shift) d src s
  | free d => exact .complete (s.setSlot_pc d .empty)
  | halt => exact fun f info h => nomatch congrArg State.status (Host.Outcome.next.inj h)

/-- Settles O19: a command that comes into FAULTED has taken a fault entry, and its code is in the
command's row. -/
theorem commandsRaiseOnlyTheirCauses : Obligations.CommandsRaiseOnlyTheirCauses := by
  intro i s t h hs ht
  obtain ⟨f, info, rfl⟩ := exec_faulted_eq_raise h hs ht
  exact exec_raisesOnly i s f info h

/-- A code outside the command's row is in `ERR` after the command only if it was there before. -/
theorem exec_err_ne {i : Instr} {s t : State} (h : exec i s = .next t) {code : BitVec 4}
    (hc : code ∉ i.causes) (hs : s.err ≠ code) : t.err ≠ code := by
  obtain ⟨f, info, rfl⟩ | ⟨herr, -⟩ := (Effect.of_exec h).raised_or_err_kept
  · exact fun hf => hc (hf ▸ exec_raisesOnly i s f info h)
  · exact herr ▸ hs

/-! ## PlaneCountError and SlotConflict (R166, R167) -/

theorem demosaic_of_three_planes (m : Filter) {d src : Slot} {s : State} {B : PixelBuffer}
    (hd : d ≠ src) (hs : s.slot src = .full B) (hc : B.planes.count = 3) :
    demosaic m d src s = .next (s.raise .planeCountError 0) := by
  rw [demosaic_eq_test m hd hs, if_pos (by omega), trap_eq]

theorem colorCommand_of_one_plane (g : PixelBuffer → PixelBuffer) {d src : Slot} {s : State}
    {B : PixelBuffer} (hd : d ≠ src) (hs : s.slot src = .full B) (hc : B.planes.count = 1) :
    colorCommand g d src s = .next (s.raise .planeCountError 0) := by
  rw [colorCommand, withDistinctSource_ne s hd, withSource_full hs, if_pos (by omega), trap_eq]

/-- Settles O22: by the test on the number of planes; `PACK` and `RESIZE` have no such cause. -/
theorem wrongPlaneCountRaisesPlaneCountError : Obligations.WrongPlaneCountRaisesPlaneCountError := by
  refine ⟨fun d src s B hd hs => ⟨fun hc => ?_, fun hc => ?_⟩, fun i s t hi h => exec_err_ne h ?_⟩
  · exact ⟨demosaic_of_three_planes .bicubic hd hs hc, demosaic_of_three_planes .bilinear hd hs hc⟩
  · exact ⟨colorCommand_of_one_plane (rgbToYcc s.params.shift) hd hs hc,
      colorCommand_of_one_plane (yccToRgb s.params.shift) hd hs hc⟩
  · cases i with
    | pack | resizeBc | resizeBl => simp only [Instr.causes]; decide
    | _ => exact hi.elim

/-- Settles O20. -/
theorem slotConflictIsTestedFirst : Obligations.SlotConflictIsTestedFirst := by
  intro i d s hi
  obtain ⟨k, hk⟩ := exec_of_slotPair hi s
  rw [Raises, hk, withDistinctSource_same]
  rfl

/-! ## FetchError (R168) -/

theorem step_of_pc_past_store {s : State} (hr : s.status = .running)
    (hpc : s.params.ncmd ≤ s.pc.toNat) : step s = .next (s.raise .fetchError 0) :=
  step_of_fetch_error hr (if_pos hpc)

/-- Settles O7. -/
theorem fetchPastStoreFaults : Obligations.FetchPastStoreFaults := by
  intro s hr hpc
  have hstep := step_of_pc_past_store hr hpc
  refine ⟨hstep, fun hend t ht => ?_⟩
  cases hstep.symm.trans ht
  rw [State.raise_errPc, hend]

/-! ## FAULTED is left by a RESET only (R20, R171, R173) -/

/-- A write of a register of an engine in FAULTED is a RESET or changes nothing: START is ignored. -/
theorem State.writeRegister_of_faulted {s : State} (hs : s.status = .faulted) (n : BitVec 8)
    (v : Word) :
    s.writeRegister n v = s ∨ (n = 0 ∧ v[1] = true ∧ s.writeRegister n v = s.softReset) := by
  unfold State.writeRegister State.writeCtrl
  split_ifs with hn hreset hstart
  · exact .inr ⟨hn, hreset, rfl⟩
  · exact .inl (State.start_ignored (.inr hs))
  · exact .inl rfl
  · exact .inl rfl

/-- Settles O23: the host's writes of the two memories touch no register, and its writes of registers
are ignored but for a RESET. -/
theorem faultIsSticky : Obligations.FaultIsSticky := by
  intro s hs
  refine ⟨step_of_not_running (by simp [hs]), fun m t h => ?_⟩
  cases m with
  | writeCmd | writeMem =>
    simp only [hostMove] at h
    split_ifs at h
    cases h
    exact .inl ⟨hs, rfl, rfl, rfl, rfl, rfl⟩
  | writeReg n v =>
    cases h
    obtain hkept | ⟨rfl, hreset, hw⟩ := State.writeRegister_of_faulted hs n v
    · rw [hkept]
      exact .inl ⟨hs, rfl, rfl, rfl, rfl, rfl⟩
    · exact .inr ⟨v, rfl, hreset, hw⟩

end Sys2Proof.Machine
end

section
/-! The two resets and the host (`70_reset_and_hazards.md` R190, R194; `10_state.md` R19, R20, R40, R43):
what a move of the host can do, that the resets and every move keep the invariant, and what the host's
writes of the two memories leave. -/

namespace Sys2Proof.Machine

/-! ## The resets (R190) -/

theorem State.powerOn_slotsLegal (p : Config.Params) : (State.powerOn p).SlotsLegal := by
  intro k
  rw [State.powerOn_slot]
  exact ⟨trivial, fun _ => rfl⟩

theorem State.powerOn_storesLegal (p : Config.Params) : (State.powerOn p).StoresLegal :=
  ⟨Memory.wf_powerOn p, List.Pairwise.nil, nofun, nofun⟩

theorem State.powerOn_sequencerLegal (p : Config.Params) : (State.powerOn p).SequencerLegal :=
  ⟨Nat.zero_le _, ⟨fun h => absurd rfl h, nofun⟩, Nat.zero_le _, fun _ => ⟨rfl, rfl⟩⟩

theorem State.powerOn_inv (p : Config.Params) : (State.powerOn p).Inv :=
  ⟨State.powerOn_slotsLegal p, State.powerOn_storesLegal p, State.powerOn_sequencerLegal p⟩

theorem State.powerOn_onePlaneInRange (p : Config.Params) : (State.powerOn p).OnePlaneInRange :=
  fun k _ hB _ => nomatch (State.powerOn_slot p k).symm.trans hB

/-- Settles O13. -/
theorem resetMeetsInvariant : Obligations.ResetMeetsInvariant :=
  ⟨fun p => ⟨State.powerOn_inv p, State.powerOn_onePlaneInRange p⟩, State.powerOn_inv _⟩

/-- Settles O52: the slots by the laws of the two resets, every other clause by their definitions. -/
theorem resetsLeaveTheTable : Obligations.ResetsLeaveTheTable :=
  fun p s =>
    ⟨⟨State.powerOn_slot p, rfl, rfl, rfl, rfl, rfl⟩,
      ⟨s.softReset_slot, s.softReset_pc, s.softReset_status, s.softReset_err, s.softReset_errInfo,
        s.softReset_errPc, s.softReset_mem, s.softReset_cmd, s.softReset_readByte,
        s.softReset_readCommand⟩,
      rfl⟩

/-! ## What a move of the host can do (R20, R40, R194) -/

/-- The state after a move of the host that is not refused, by what it did. -/
inductive HostEffect (s : State) : HostMove → State → Prop
  | wroteCommand {i : Nat} (hr : s.status ≠ .running) (hi : i < s.params.ncmd) (W0 W1 W2 W3 : Word) :
    HostEffect s (.writeCmd i W0 W1 W2 W3) (s.writeCommand i (commandOfWords W0 W1 W2 W3))
  | wroteByte {a : Nat} (hr : s.status ≠ .running) (ha : a < s.params.memBytes) (b : Byte) :
    HostEffect s (.writeMem a b) (s.writeByte a b)
  | reset {v : Word} (hv : v[1] = true) : HostEffect s (.writeReg 0 v) s.softReset
  | started {v : Word} (hv : v[1] = false ∧ v[0] = true) (hs : s.status = .idle ∨ s.status = .halted) :
    HostEffect s (.writeReg 0 v) { s with pc := 0, status := .running }
  | ignored (n : BitVec 8) (v : Word) : HostEffect s (.writeReg n v) s

/-- Along the tests of R20. -/
theorem HostEffect.of_writeCtrl (s : State) (v : Word) :
    HostEffect s (.writeReg 0 v) (s.writeCtrl v) := by
  unfold State.writeCtrl
  split_ifs with hreset hstart
  · exact .reset hreset
  · have hv : v[1] = false ∧ v[0] = true := ⟨Bool.eq_false_iff.mpr hreset, hstart⟩
    cases hs : s.status with
    | idle =>
      rw [State.start_of_stopped (.inl hs)]
      exact .started hv (.inl hs)
    | halted =>
      rw [State.start_of_stopped (.inr hs)]
      exact .started hv (.inr hs)
    | running =>
      rw [State.start_ignored (.inl hs)]
      exact .ignored 0 v
    | faulted =>
      rw [State.start_ignored (.inr hs)]
      exact .ignored 0 v
  · exact .ignored 0 v

theorem HostEffect.of_hostMove {m : HostMove} {s t : State} (h : hostMove m s = .next t) :
    HostEffect s m t := by
  cases m with
  | writeCmd i W0 W1 W2 W3 =>
    simp only [hostMove] at h
    split_ifs at h with hr hi
    cases h
    exact .wroteCommand hr (not_le.mp hi) W0 W1 W2 W3
  | writeMem a b =>
    simp only [hostMove] at h
    split_ifs at h with hr ha
    cases h
    exact .wroteByte hr (not_le.mp ha) b
  | writeReg n v =>
    cases h
    unfold State.writeRegister
    split_ifs with hn
    · exact hn ▸ .of_writeCtrl s v
    · exact .ignored n v

/-! ## The moves keep the invariant -/

theorem State.StoresLegal.writeByte {s : State} (h : s.StoresLegal) {a : Nat}
    (ha : a < s.params.memBytes) (b : Byte) : (s.writeByte a b).StoresLegal := by
  obtain ⟨hmem, hcmd, hmemLt, hcmdLt⟩ := h
  exact ⟨Cells.set_wf hmem a b, hcmd, Cells.set_keys_lt hmemLt ha b, hcmdLt⟩

theorem State.StoresLegal.writeCommand {s : State} (h : s.StoresLegal) {i : Nat}
    (hi : i < s.params.ncmd) (C : Command) : (s.writeCommand i C).StoresLegal := by
  obtain ⟨hmem, hcmd, hmemLt, hcmdLt⟩ := h
  exact ⟨hmem, Cells.set_wf hcmd i C, hmemLt, Cells.set_keys_lt hcmdLt hi C⟩

/-- Outside FAULTED `ERR` is 0 already, so START need not clear it (R20). -/
theorem State.SequencerLegal.started {s : State} (h : s.SequencerLegal) (hs : s.status ≠ .faulted) :
    ({ s with pc := 0, status := .running } : State).SequencerLegal := by
  obtain ⟨-, hfault, h9, h0⟩ := h
  exact ⟨Nat.zero_le _, ⟨fun he => absurd (hfault.mp he) hs, nofun⟩, h9, h0⟩

/-- But for the two memories, the soft reset leaves what the power-on reset does. -/
theorem State.Inv.softReset {s : State} (h : s.Inv) : s.softReset.Inv := by
  obtain ⟨-, hstores, -⟩ := h
  exact ⟨State.powerOn_slotsLegal s.params, hstores, State.powerOn_sequencerLegal s.params⟩

theorem HostEffect.keeps_inv {m : HostMove} {s t : State} (h : HostEffect s m t) (hs : s.Inv) :
    t.Inv := by
  have ⟨hslots, hstores, hseq⟩ := hs
  cases h with
  | wroteCommand _ hi W0 W1 W2 W3 => exact ⟨hslots, hstores.writeCommand hi _, hseq⟩
  | wroteByte _ ha b => exact ⟨hslots, hstores.writeByte ha b, hseq⟩
  | reset _ => exact hs.softReset
  | started _ hst =>
    have hne : s.status ≠ .faulted := by rcases hst with h | h <;> rw [h] <;> decide
    exact ⟨hslots, hstores, hseq.started hne⟩
  | ignored _ _ => exact hs

/-- Settles O14: by what a move of the host can do. -/
theorem hostMovesKeepInvariant : Obligations.HostMovesKeepInvariant :=
  fun _ _ _ hs h => (HostEffect.of_hostMove h).keeps_inv hs

/-! ## The host writes no slot (R43, R194) -/

/-- Settles O55: of what a move of the host can do, only the soft reset touches the slots. -/
theorem hostCannotWriteSlots : Obligations.HostCannotWriteSlots := by
  intro m s t h
  cases HostEffect.of_hostMove h with
  | wroteCommand _ _ W0 W1 W2 W3 => exact .inl (s.writeCommand_slots _ _)
  | wroteByte _ _ b => exact .inl (s.writeByte_slots _ b)
  | reset hv => exact .inr ⟨⟨_, rfl, hv⟩, s.softReset_slot⟩
  | started _ _ => exact .inl rfl
  | ignored _ _ => exact .inl rfl

/-! ## The host writes the two memories (R40, R194) -/

section

variable {s : State} (hr : s.status ≠ .running)

include hr

theorem hostMove_writeMem {a : Nat} (ha : a < s.params.memBytes) (b : Byte) :
    hostMove (.writeMem a b) s = .next (s.writeByte a b) := by
  rw [hostMove, if_neg hr, if_neg (not_le.mpr ha)]

theorem hostMove_writeMem_outside {a : Nat} (ha : s.params.memBytes ≤ a) (b : Byte) :
    hostMove (.writeMem a b) s = .refused .hostAccessOutside := by
  rw [hostMove, if_neg hr, if_pos ha]

theorem hostMove_writeCmd {i : Nat} (hi : i < s.params.ncmd) (W0 W1 W2 W3 : Word) :
    hostMove (.writeCmd i W0 W1 W2 W3) s =
      .next (s.writeCommand i (commandOfWords W0 W1 W2 W3)) := by
  rw [hostMove, if_neg hr, if_neg (not_le.mpr hi)]

theorem hostMove_writeCmd_outside {i : Nat} (hi : s.params.ncmd ≤ i) (W0 W1 W2 W3 : Word) :
    hostMove (.writeCmd i W0 W1 W2 W3) s = .refused .hostAccessOutside := by
  rw [hostMove, if_neg hr, if_pos hi]

theorem State.hostReadMem_eq_readByte {a : Nat} (ha : a < s.params.memBytes) :
    s.hostReadMem a = .ok (s.readByte a) := by
  rw [State.hostReadMem, if_neg hr, if_neg (not_le.mpr ha)]

/-- The write changes neither test of the read, so the host reads back what it wrote. -/
theorem State.writeByte_hostReadMem_same {a : Nat} (ha : a < s.params.memBytes) (b : Byte) :
    (s.writeByte a b).hostReadMem a = .ok b := by
  rw [State.hostReadMem_eq_readByte (s := s.writeByte a b) hr ha, State.writeByte_readByte_same]

end

/-- Settles O56: the two tests of each move, then the laws of a read after a write. -/
theorem hostWritesTheMemories : Obligations.HostWritesTheMemories := by
  intro s a i b W0 W1 W2 W3
  refine ⟨fun hr ha => ?_, fun hr hi => ?_, fun hr => ⟨if_pos hr, if_pos hr⟩,
    fun hr ha => hostMove_writeMem_outside hr ha b,
    fun hr hi => hostMove_writeCmd_outside hr hi W0 W1 W2 W3⟩
  · exact ⟨_, hostMove_writeMem hr ha b, rfl, State.writeByte_hostReadMem_same hr ha b,
      fun _ hq => s.writeByte_readByte_ne hq b⟩
  · exact ⟨_, hostMove_writeCmd hr hi W0 W1 W2 W3, rfl, s.writeCommand_readCommand_same i _,
      fun _ hq => s.writeCommand_readCommand_ne hq _⟩

end Sys2Proof.Machine
end
